-- ==== Sys2Proof/Word.lean ====
section
/-! DEFINITION. The storage word of the block.

One slot of the register file, of the data memory or of a packed value field is at most 32 bits wide
(R6: the word width W is 8, 16 or 32). A slot is therefore kept as a `BitVec 32`; at W = 8 and W = 16
only the values below 2^W occur (R30), which is part of the machine's invariant (`Safety.lean`). -/

namespace Sys2Proof

/-- One W-bit word, kept in 32 bits (R10: "an unsigned integer in [0, M]"). -/
abbrev Word := BitVec 32

/-- One packed instruction record of 112 bits (R95). -/
abbrev PackedWord := BitVec 112

end Sys2Proof
end

