-- ==== Sys2Proof/Syntax.lean ====
section
/-! DEFINITION. The syntax of the instruction set: operand kinds, operand roles, operands, and one
constructor of `Instr` for each row of the opcode table (R104), in the table's order. -/

namespace Sys2Proof

/-- Operand primitive kinds (R92). `unknown2` and `unknown3` are the two unrecognised kind codes: they
load, and fault when the operand is resolved or written. -/
inductive Kind where
  | imm
  | reg
  | unknown2
  | unknown3
  deriving DecidableEq, Repr

/-- Operand roles, the source's "operand-operations" (R93). -/
inductive Role where
  | get
  | getRam
  | ramOffset
  | set
  | setRam
  deriving DecidableEq, Repr

/-- One operand of an instruction record: its primitive kind and its 32-bit value field (R91, R95). -/
structure Operand where
  kind : Kind
  value : Word
  deriving DecidableEq, Repr

/-- The instructions, one constructor for each row of the opcode table (R104). The arguments are the
operands 0, 1, 2 in record order (R91). -/
inductive Instr where
  /-- ADD, opcode 0x00: add (R182). -/
  | add (a b c : Operand)
  /-- RSH, opcode 0x01: logical shift right by one (R200). -/
  | rsh (a b : Operand)
  /-- LOD, opcode 0x02: load from memory (R163). -/
  | lod (a b : Operand)
  /-- STR, opcode 0x03: store to memory (R164). -/
  | str (a b : Operand)
  /-- BGE, opcode 0x04: branch if greater or equal, unsigned (R243). -/
  | bge (a b c : Operand)
  /-- NOR, opcode 0x05: bitwise not-or (R195). -/
  | nor (a b c : Operand)
  /-- IMM, opcode 0x06: load immediate (R160). -/
  | imm (a b : Operand)
  /-- SUB, opcode 0x07: subtract (R183). -/
  | sub (a b c : Operand)
  /-- JMP, opcode 0x08: unconditional jump (R242). -/
  | jmp (a : Operand)
  /-- MOV, opcode 0x09: register move (R161). -/
  | mov (a b : Operand)
  /-- NOP, opcode 0x0A: no operation (R162). -/
  | nop
  /-- LSH, opcode 0x0B: shift left by one (R199). -/
  | lsh (a b : Operand)
  /-- INC, opcode 0x0C: increment (R184). -/
  | inc (a b : Operand)
  /-- DEC, opcode 0x0D: decrement (R185). -/
  | dec (a b : Operand)
  /-- NEG, opcode 0x0E: two's-complement negate (R186). -/
  | neg (a b : Operand)
  /-- AND, opcode 0x0F: bitwise and (R192). -/
  | and (a b c : Operand)
  /-- OR, opcode 0x10: bitwise or (R193). -/
  | or (a b c : Operand)
  /-- NOT, opcode 0x11: bitwise complement (R198). -/
  | not (a b : Operand)
  /-- XNOR, opcode 0x12: bitwise equivalence (R197). -/
  | xnor (a b c : Operand)
  /-- XOR, opcode 0x13: bitwise exclusive or (R194). -/
  | xor (a b c : Operand)
  /-- NAND, opcode 0x14: bitwise not-and (R196). -/
  | nand (a b c : Operand)
  /-- BRL, opcode 0x15: branch if less, unsigned (R244). -/
  | brl (a b c : Operand)
  /-- BRG, opcode 0x16: branch if greater, unsigned (R245). -/
  | brg (a b c : Operand)
  /-- BRE, opcode 0x17: branch if equal (R247). -/
  | bre (a b c : Operand)
  /-- BNE, opcode 0x18: branch if not equal (R248). -/
  | bne (a b c : Operand)
  /-- BOD, opcode 0x19: branch if odd (R253). -/
  | bod (a b : Operand)
  /-- BEV, opcode 0x1A: branch if even (R254). -/
  | bev (a b : Operand)
  /-- BLE, opcode 0x1B: branch if less or equal, unsigned (R246). -/
  | ble (a b c : Operand)
  /-- BRZ, opcode 0x1C: branch if zero (R249). -/
  | brz (a b : Operand)
  /-- BNZ, opcode 0x1D: branch if not zero (R250). -/
  | bnz (a b : Operand)
  /-- BRN, opcode 0x1E: branch if negative (R251). -/
  | brn (a b : Operand)
  /-- BRP, opcode 0x1F: branch if positive, meaning the sign bit is clear (R252). -/
  | brp (a b : Operand)
  /-- PSH, opcode 0x20: push a word (R280). -/
  | psh (a : Operand)
  /-- POP, opcode 0x21: pop a word (R281). -/
  | pop (a : Operand)
  /-- CAL, opcode 0x22: call (R261). -/
  | cal (a : Operand)
  /-- RET, opcode 0x23: return (R262). -/
  | ret
  /-- HLT, opcode 0x24: halt (R241). -/
  | hlt
  /-- CPY, opcode 0x25: memory to memory copy (R165). -/
  | cpy (a b : Operand)
  /-- BRC, opcode 0x26: branch if the addition carries (R255). -/
  | brc (a b c : Operand)
  /-- BNC, opcode 0x27: branch if the addition does not carry (R256). -/
  | bnc (a b c : Operand)
  /-- MLT, opcode 0x28: multiply, low word (R187). -/
  | mlt (a b c : Operand)
  /-- DIV, opcode 0x29: unsigned divide (R188). -/
  | div (a b c : Operand)
  /-- MOD, opcode 0x2A: unsigned remainder (R189). -/
  | mod (a b c : Operand)
  /-- BSR, opcode 0x2B: barrel shift right, logical (R202). -/
  | bsr (a b c : Operand)
  /-- BSL, opcode 0x2C: barrel shift left (R201). -/
  | bsl (a b c : Operand)
  /-- SRS, opcode 0x2D: arithmetic shift right by one (R203). -/
  | srs (a b : Operand)
  /-- BSS, opcode 0x2E: barrel shift right, arithmetic (R204). -/
  | bss (a b c : Operand)
  /-- SETE, opcode 0x2F: set if equal (R205). -/
  | sete (a b c : Operand)
  /-- SETNE, opcode 0x30: set if not equal (R206). -/
  | setne (a b c : Operand)
  /-- SETG, opcode 0x31: set if greater, unsigned (R207). -/
  | setg (a b c : Operand)
  /-- SETL, opcode 0x32: set if less, unsigned (R208). -/
  | setl (a b c : Operand)
  /-- SETGE, opcode 0x33: set if greater or equal, unsigned (R209). -/
  | setge (a b c : Operand)
  /-- SETLE, opcode 0x34: set if less or equal, unsigned (R210). -/
  | setle (a b c : Operand)
  /-- SETC, opcode 0x35: set if the addition carries (R211). -/
  | setc (a b c : Operand)
  /-- SETNC, opcode 0x36: set if the addition does not carry (R212). -/
  | setnc (a b c : Operand)
  /-- LLOD, opcode 0x37: load with offset (R166). -/
  | llod (a b c : Operand)
  /-- LSTR, opcode 0x38: store with offset (R167). -/
  | lstr (a b c : Operand)
  /-- SDIV, opcode 0x39: signed divide, rounding toward zero (R190). -/
  | sdiv (a b c : Operand)
  /-- SBRL, opcode 0x3A: branch if less, signed (R257). -/
  | sbrl (a b c : Operand)
  /-- SBRG, opcode 0x3B: branch if greater, signed (R258). -/
  | sbrg (a b c : Operand)
  /-- SBLE, opcode 0x3C: branch if less or equal, signed (R259). -/
  | sble (a b c : Operand)
  /-- SBGE, opcode 0x3D: branch if greater or equal, signed (R260). -/
  | sbge (a b c : Operand)
  /-- SSETL, opcode 0x3E: set if less, signed (R213). -/
  | ssetl (a b c : Operand)
  /-- SSETG, opcode 0x3F: set if greater, signed (R214). -/
  | ssetg (a b c : Operand)
  /-- SSETLE, opcode 0x40: set if less or equal, signed (R215). -/
  | ssetle (a b c : Operand)
  /-- SSETGE, opcode 0x41: set if greater or equal, signed (R216). -/
  | ssetge (a b c : Operand)
  /-- ABS, opcode 0x42: absolute value of a signed word (R191). -/
  | abs (a b : Operand)
  /-- IN, opcode 0x43: read a word from a port (R294). -/
  | inPort (a b : Operand)
  /-- OUT, opcode 0x44: write a word to a port (R295). -/
  | outPort (a b : Operand)
  deriving DecidableEq, Repr

/-- The operands of an instruction in record order (R91). -/
def Instr.operands : Instr → List Operand
  | .add a b c => [a, b, c]
  | .rsh a b => [a, b]
  | .lod a b => [a, b]
  | .str a b => [a, b]
  | .bge a b c => [a, b, c]
  | .nor a b c => [a, b, c]
  | .imm a b => [a, b]
  | .sub a b c => [a, b, c]
  | .jmp a => [a]
  | .mov a b => [a, b]
  | .nop => []
  | .lsh a b => [a, b]
  | .inc a b => [a, b]
  | .dec a b => [a, b]
  | .neg a b => [a, b]
  | .and a b c => [a, b, c]
  | .or a b c => [a, b, c]
  | .not a b => [a, b]
  | .xnor a b c => [a, b, c]
  | .xor a b c => [a, b, c]
  | .nand a b c => [a, b, c]
  | .brl a b c => [a, b, c]
  | .brg a b c => [a, b, c]
  | .bre a b c => [a, b, c]
  | .bne a b c => [a, b, c]
  | .bod a b => [a, b]
  | .bev a b => [a, b]
  | .ble a b c => [a, b, c]
  | .brz a b => [a, b]
  | .bnz a b => [a, b]
  | .brn a b => [a, b]
  | .brp a b => [a, b]
  | .psh a => [a]
  | .pop a => [a]
  | .cal a => [a]
  | .ret => []
  | .hlt => []
  | .cpy a b => [a, b]
  | .brc a b c => [a, b, c]
  | .bnc a b c => [a, b, c]
  | .mlt a b c => [a, b, c]
  | .div a b c => [a, b, c]
  | .mod a b c => [a, b, c]
  | .bsr a b c => [a, b, c]
  | .bsl a b c => [a, b, c]
  | .srs a b => [a, b]
  | .bss a b c => [a, b, c]
  | .sete a b c => [a, b, c]
  | .setne a b c => [a, b, c]
  | .setg a b c => [a, b, c]
  | .setl a b c => [a, b, c]
  | .setge a b c => [a, b, c]
  | .setle a b c => [a, b, c]
  | .setc a b c => [a, b, c]
  | .setnc a b c => [a, b, c]
  | .llod a b c => [a, b, c]
  | .lstr a b c => [a, b, c]
  | .sdiv a b c => [a, b, c]
  | .sbrl a b c => [a, b, c]
  | .sbrg a b c => [a, b, c]
  | .sble a b c => [a, b, c]
  | .sbge a b c => [a, b, c]
  | .ssetl a b c => [a, b, c]
  | .ssetg a b c => [a, b, c]
  | .ssetle a b c => [a, b, c]
  | .ssetge a b c => [a, b, c]
  | .abs a b => [a, b]
  | .inPort a b => [a, b]
  | .outPort a b => [a, b]

end Sys2Proof
end

