-- ==== Sys2Proof/WellFormed.lean ====
section
/-! DEFINITION. Which instructions a load accepts: the operand checks of R97, R98 and R354, relative to
the largest word `m` (CFG_M) and the register count `nreg` (CFG_NREG) of the program's configuration. -/

namespace Sys2Proof

/-- The load check of one operand: an Imm value is at most M (R97), a Reg value is a register index below
NREG (R98). Kind codes 2 and 3 are not checked at load (R354). -/
def Operand.wellFormed (m nreg : Nat) (o : Operand) : Bool :=
  match o.kind with
  | .imm => decide (o.value.toNat ≤ m)
  | .reg => decide (o.value.toNat < nreg)
  | .unknown2 => true
  | .unknown3 => true

/-- The load check of an instruction: every operand passes (R354). -/
def Instr.wellFormed (m nreg : Nat) (i : Instr) : Bool :=
  i.operands.all (Operand.wellFormed m nreg)

/-- The operand's kind code is one of the two unrecognised ones (R92). -/
abbrev Operand.badKind (o : Operand) : Prop := o.kind = .unknown2 ∨ o.kind = .unknown3

end Sys2Proof
end

