-- ==== Sys2Proof/Decode.lean ====
section
/-! DEFINITION. The packed layout of an instruction record (R95, R96), the role lists of the dispatch
table (R104), the decoder and, after it, the encoder. -/

namespace Sys2Proof

/-- The kind a 2-bit kind code names (R92). -/
def Kind.ofCode (c : BitVec 2) : Kind :=
  if c = 0 then .imm else if c = 1 then .reg else if c = 2 then .unknown2 else .unknown3

/-- The 2-bit code of a kind (R92). -/
def Kind.code : Kind → BitVec 2
  | .imm => 0
  | .reg => 1
  | .unknown2 => 2
  | .unknown3 => 3

/-- OPC, bits 7:0 (R96). -/
def fieldOpc (w : PackedWord) : Nat := (w.extractLsb' 0 8).toNat

/-- The kind of operand `j`, bits 9+2j : 8+2j (R96). -/
def fieldKind (w : PackedWord) (j : Nat) : Kind := Kind.ofCode (w.extractLsb' (8 + 2 * j) 2)

/-- The value field of operand `j`, bits 47+32j : 16+32j (R96). -/
def fieldValue (w : PackedWord) (j : Nat) : Word := w.extractLsb' (16 + 32 * j) 32

/-- RSV, bits 15:14 (R96). -/
def fieldRsv (w : PackedWord) : BitVec 2 := w.extractLsb' 14 2

/-- Operand `j` of a packed record (R96). -/
def operandAt (w : PackedWord) (j : Nat) : Operand := ⟨fieldKind w j, fieldValue w j⟩

/-- The slot `j` is unused as R95 requires: its kind code and its value field are 0. -/
def slotUnused (w : PackedWord) (j : Nat) : Bool := operandAt w j = ⟨.imm, 0⟩

/-- The role list of an opcode in the reference dispatch table (R104). HLT, code 0x24, has no entry
(R99), and codes 0x45 to 0xFF are unassigned (R102). -/
def dispatchRoles (opc : Nat) : Option (List Role) :=
  match opc with
  | 0x00 => some [.set, .get, .get]
  | 0x01 => some [.set, .get]
  | 0x02 => some [.set, .getRam]
  | 0x03 => some [.setRam, .get]
  | 0x04 => some [.get, .get, .get]
  | 0x05 => some [.set, .get, .get]
  | 0x06 => some [.set, .get]
  | 0x07 => some [.set, .get, .get]
  | 0x08 => some [.get]
  | 0x09 => some [.set, .get]
  | 0x0A => some []
  | 0x0B => some [.set, .get]
  | 0x0C => some [.set, .get]
  | 0x0D => some [.set, .get]
  | 0x0E => some [.set, .get]
  | 0x0F => some [.set, .get, .get]
  | 0x10 => some [.set, .get, .get]
  | 0x11 => some [.set, .get]
  | 0x12 => some [.set, .get, .get]
  | 0x13 => some [.set, .get, .get]
  | 0x14 => some [.set, .get, .get]
  | 0x15 => some [.get, .get, .get]
  | 0x16 => some [.get, .get, .get]
  | 0x17 => some [.get, .get, .get]
  | 0x18 => some [.get, .get, .get]
  | 0x19 => some [.get, .get]
  | 0x1A => some [.get, .get]
  | 0x1B => some [.get, .get, .get]
  | 0x1C => some [.get, .get]
  | 0x1D => some [.get, .get]
  | 0x1E => some [.get, .get]
  | 0x1F => some [.get, .get]
  | 0x20 => some [.get]
  | 0x21 => some [.set]
  | 0x22 => some [.get]
  | 0x23 => some []
  | 0x25 => some [.setRam, .getRam]
  | 0x26 => some [.get, .get, .get]
  | 0x27 => some [.get, .get, .get]
  | 0x28 => some [.set, .get, .get]
  | 0x29 => some [.set, .get, .get]
  | 0x2A => some [.set, .get, .get]
  | 0x2B => some [.set, .get, .get]
  | 0x2C => some [.set, .get, .get]
  | 0x2D => some [.set, .get]
  | 0x2E => some [.set, .get, .get]
  | 0x2F => some [.set, .get, .get]
  | 0x30 => some [.set, .get, .get]
  | 0x31 => some [.set, .get, .get]
  | 0x32 => some [.set, .get, .get]
  | 0x33 => some [.set, .get, .get]
  | 0x34 => some [.set, .get, .get]
  | 0x35 => some [.set, .get, .get]
  | 0x36 => some [.set, .get, .get]
  | 0x37 => some [.set, .ramOffset, .getRam]
  | 0x38 => some [.setRam, .ramOffset, .get]
  | 0x39 => some [.set, .get, .get]
  | 0x3A => some [.get, .get, .get]
  | 0x3B => some [.get, .get, .get]
  | 0x3C => some [.get, .get, .get]
  | 0x3D => some [.get, .get, .get]
  | 0x3E => some [.set, .get, .get]
  | 0x3F => some [.set, .get, .get]
  | 0x40 => some [.set, .get, .get]
  | 0x41 => some [.set, .get, .get]
  | 0x42 => some [.set, .get]
  | 0x43 => some [.set, .get]
  | 0x44 => some [.get, .get]
  | _ => none

/-- The operand count of an opcode (R94): the length of its role list, and 0 for HLT; `none` for an
unknown opcode. -/
def operandCount (opc : Nat) : Option Nat :=
  if opc = 0x24 then some 0 else (dispatchRoles opc).map List.length

/-- Why a packed record is not an instruction of the table. `unknownOpcode`: its OPC is unassigned; it
loads, and executing it raises UNKNOWN_OPCODE (R101). `reservedBits` and `unusedSlot`: RSV, or a field of
an unused operand slot, is not 0; such a record is refused at load (R102). -/
inductive DecodeError where
  | unknownOpcode
  | reservedBits
  | unusedSlot
  deriving DecidableEq, Repr

/-- Accept `i` when RSV and the listed unused slots are 0 (R95, R102). -/
def checked (w : PackedWord) (unused : List Nat) (i : Instr) : Except DecodeError Instr :=
  if fieldRsv w ≠ 0 then .error .reservedBits
  else if unused.all (slotUnused w) then .ok i
  else .error .unusedSlot

/-- Format F0: no operand (R95). -/
def form0 (w : PackedWord) (i : Instr) : Except DecodeError Instr := checked w [0, 1, 2] i

/-- Format F1: operand 0 only (R95). -/
def form1 (w : PackedWord) (mk : Operand → Instr) : Except DecodeError Instr :=
  checked w [1, 2] (mk (operandAt w 0))

/-- Format F2: operands 0 and 1 (R95). -/
def form2 (w : PackedWord) (mk : Operand → Operand → Instr) : Except DecodeError Instr :=
  checked w [2] (mk (operandAt w 0) (operandAt w 1))

/-- Format F3: operands 0, 1 and 2 (R95). -/
def form3 (w : PackedWord) (mk : Operand → Operand → Operand → Instr) : Except DecodeError Instr :=
  checked w [] (mk (operandAt w 0) (operandAt w 1) (operandAt w 2))

/-- The decoder: total on every 112-bit record, rejecting by name (R95, R96, R104). -/
def decode (w : PackedWord) : Except DecodeError Instr :=
  match fieldOpc w with
  | 0x00 => form3 w .add
  | 0x01 => form2 w .rsh
  | 0x02 => form2 w .lod
  | 0x03 => form2 w .str
  | 0x04 => form3 w .bge
  | 0x05 => form3 w .nor
  | 0x06 => form2 w .imm
  | 0x07 => form3 w .sub
  | 0x08 => form1 w .jmp
  | 0x09 => form2 w .mov
  | 0x0A => form0 w .nop
  | 0x0B => form2 w .lsh
  | 0x0C => form2 w .inc
  | 0x0D => form2 w .dec
  | 0x0E => form2 w .neg
  | 0x0F => form3 w .and
  | 0x10 => form3 w .or
  | 0x11 => form2 w .not
  | 0x12 => form3 w .xnor
  | 0x13 => form3 w .xor
  | 0x14 => form3 w .nand
  | 0x15 => form3 w .brl
  | 0x16 => form3 w .brg
  | 0x17 => form3 w .bre
  | 0x18 => form3 w .bne
  | 0x19 => form2 w .bod
  | 0x1A => form2 w .bev
  | 0x1B => form3 w .ble
  | 0x1C => form2 w .brz
  | 0x1D => form2 w .bnz
  | 0x1E => form2 w .brn
  | 0x1F => form2 w .brp
  | 0x20 => form1 w .psh
  | 0x21 => form1 w .pop
  | 0x22 => form1 w .cal
  | 0x23 => form0 w .ret
  | 0x24 => form0 w .hlt
  | 0x25 => form2 w .cpy
  | 0x26 => form3 w .brc
  | 0x27 => form3 w .bnc
  | 0x28 => form3 w .mlt
  | 0x29 => form3 w .div
  | 0x2A => form3 w .mod
  | 0x2B => form3 w .bsr
  | 0x2C => form3 w .bsl
  | 0x2D => form2 w .srs
  | 0x2E => form3 w .bss
  | 0x2F => form3 w .sete
  | 0x30 => form3 w .setne
  | 0x31 => form3 w .setg
  | 0x32 => form3 w .setl
  | 0x33 => form3 w .setge
  | 0x34 => form3 w .setle
  | 0x35 => form3 w .setc
  | 0x36 => form3 w .setnc
  | 0x37 => form3 w .llod
  | 0x38 => form3 w .lstr
  | 0x39 => form3 w .sdiv
  | 0x3A => form3 w .sbrl
  | 0x3B => form3 w .sbrg
  | 0x3C => form3 w .sble
  | 0x3D => form3 w .sbge
  | 0x3E => form3 w .ssetl
  | 0x3F => form3 w .ssetg
  | 0x40 => form3 w .ssetle
  | 0x41 => form3 w .ssetge
  | 0x42 => form2 w .abs
  | 0x43 => form2 w .inPort
  | 0x44 => form2 w .outPort
  | _ => .error .unknownOpcode

/-- The opcode code of an instruction (R104). -/
def opcodeOf : Instr → BitVec 8
  | .add _ _ _ => 0x00
  | .rsh _ _ => 0x01
  | .lod _ _ => 0x02
  | .str _ _ => 0x03
  | .bge _ _ _ => 0x04
  | .nor _ _ _ => 0x05
  | .imm _ _ => 0x06
  | .sub _ _ _ => 0x07
  | .jmp _ => 0x08
  | .mov _ _ => 0x09
  | .nop => 0x0A
  | .lsh _ _ => 0x0B
  | .inc _ _ => 0x0C
  | .dec _ _ => 0x0D
  | .neg _ _ => 0x0E
  | .and _ _ _ => 0x0F
  | .or _ _ _ => 0x10
  | .not _ _ => 0x11
  | .xnor _ _ _ => 0x12
  | .xor _ _ _ => 0x13
  | .nand _ _ _ => 0x14
  | .brl _ _ _ => 0x15
  | .brg _ _ _ => 0x16
  | .bre _ _ _ => 0x17
  | .bne _ _ _ => 0x18
  | .bod _ _ => 0x19
  | .bev _ _ => 0x1A
  | .ble _ _ _ => 0x1B
  | .brz _ _ => 0x1C
  | .bnz _ _ => 0x1D
  | .brn _ _ => 0x1E
  | .brp _ _ => 0x1F
  | .psh _ => 0x20
  | .pop _ => 0x21
  | .cal _ => 0x22
  | .ret => 0x23
  | .hlt => 0x24
  | .cpy _ _ => 0x25
  | .brc _ _ _ => 0x26
  | .bnc _ _ _ => 0x27
  | .mlt _ _ _ => 0x28
  | .div _ _ _ => 0x29
  | .mod _ _ _ => 0x2A
  | .bsr _ _ _ => 0x2B
  | .bsl _ _ _ => 0x2C
  | .srs _ _ => 0x2D
  | .bss _ _ _ => 0x2E
  | .sete _ _ _ => 0x2F
  | .setne _ _ _ => 0x30
  | .setg _ _ _ => 0x31
  | .setl _ _ _ => 0x32
  | .setge _ _ _ => 0x33
  | .setle _ _ _ => 0x34
  | .setc _ _ _ => 0x35
  | .setnc _ _ _ => 0x36
  | .llod _ _ _ => 0x37
  | .lstr _ _ _ => 0x38
  | .sdiv _ _ _ => 0x39
  | .sbrl _ _ _ => 0x3A
  | .sbrg _ _ _ => 0x3B
  | .sble _ _ _ => 0x3C
  | .sbge _ _ _ => 0x3D
  | .ssetl _ _ _ => 0x3E
  | .ssetg _ _ _ => 0x3F
  | .ssetle _ _ _ => 0x40
  | .ssetge _ _ _ => 0x41
  | .abs _ _ => 0x42
  | .inPort _ _ => 0x43
  | .outPort _ _ => 0x44

/-- Pack an opcode and three operand slots as one 112-bit word, RSV = 0 (R95). -/
def packSlots (opc : BitVec 8) (o0 o1 o2 : Operand) : PackedWord :=
  o2.value ++ o1.value ++ o0.value ++ (0 : BitVec 2) ++ o2.kind.code ++ o1.kind.code ++ o0.kind.code ++ opc

/-- The content of an operand slot an instruction does not use (R95). -/
def emptySlot : Operand := ⟨.imm, 0⟩

/-- Pack an opcode with its operands in record order; slots past the operands are 0 (R95). -/
def packRecord (opc : BitVec 8) (ops : List Operand) : PackedWord :=
  packSlots opc (ops[0]?.getD emptySlot) (ops[1]?.getD emptySlot) (ops[2]?.getD emptySlot)

/-- The encoder: the packed record of an instruction (R95, R104). -/
def encode (i : Instr) : PackedWord := packRecord (opcodeOf i) i.operands

/-- The instruction the decoder reads from a record whose bits are `w`, bit 0 the least significant
(R95). A record is one 112-bit unit, the smallest the program store has (R72), so bits above `nbits` are
0 and there is no byte order. -/
def decodeTableWord (nbits w : Nat) : Option Instr :=
  match decode (BitVec.ofNat 112 (w % 2 ^ nbits)) with
  | .ok i => some i
  | .error _ => none

end Sys2Proof
end

