-- ==== Sys2Proof/Config.lean ====
section
/-! DEFINITION. What the implementation and the environment fix: the burst size, the port numbering,
and the free answers of bound input devices. -/

namespace Sys2Proof

/-- What a bound device's input function answers (R292, R303): a value, or "pending". The value is any
natural number; it is truncated to W bits where it is written (R300). -/
inductive InputAnswer where
  | value (v : Nat)
  | pending
  deriving DecidableEq, Repr, Inhabited

/-- FREE VALUE. The answer the input function that `device` bound to `port` gives when the input script
of the state is exhausted; `draw` counts such answers (R303, 93_implementation_defined.md U10: "any
value: an oracle choosing Value(v) for any word v, or Pending"). It has no body, so nothing can be
proved of it. -/
opaque Config.deviceAnswer (device : Nat) (port : Word) (draw : Nat) : InputAnswer

/-- BURST, the number of steps of one burst of `run`: the default 128 (R8, R134, D21). -/
def Config.burst : Nat := 128

/-- PORTS, the OPEN numbering of the enumerated port names (R301), given as its finite list of entries
(name, number). Nothing in the block reads it; a program holds port numbers. -/
structure Config.Ports where
  entries : List (String × Word)
  deriving DecidableEq, Repr

/-- The entries are an injective map from names to words in [0, M], `m` being CFG_M (R301): no name and no
number occurs twice. -/
abbrev Config.Ports.wf (ports : Config.Ports) (m : Word) : Prop :=
  ports.entries.Pairwise (fun d e => d.1 ≠ e.1 ∧ d.2 ≠ e.2) ∧ ∀ e ∈ ports.entries, e.2.toNat ≤ m.toNat

/-- PORTS(name), where the name is one of the enumerated ones (R301). -/
def Config.Ports.number (ports : Config.Ports) (name : String) : Option Word :=
  (ports.entries.find? fun e => decide (e.1 = name)).map Prod.snd

/-- The register index the spec's examples write `rK` (R34: "denotes register index K + 2"). -/
def Config.generalIndex (k : Nat) : Nat := k + 2

end Sys2Proof
end

