-- ==== Sys2Proof/Machine/State.lean ====
section
/-! DEFINITION. The state of the block: every piece of state the spec gives the machine (10_state.md,
45_io.md R303, 60_exceptions.md R320 to R330), the reasons a step stops, and the state at power-on.
All of it is plain data. -/

namespace Sys2Proof.Machine

/-- CFG_W, the word width (R6, R40): 8, 16 or 32 bits. `unset` is the power-on content of CFG_W, when no
program is loaded and the register "holds no value" (R40): it reads 0. -/
inductive Width where
  | unset
  | w8
  | w16
  | w32
  deriving DecidableEq, Repr

/-- The number of bits of a width. -/
def Width.bits : Width → Nat
  | .unset => 0
  | .w8 => 8
  | .w16 => 16
  | .w32 => 32

/-- The configuration registers CFG_* (R40), written only by a load. -/
structure Cfg where
  /-- CFG_W. -/
  w : Width
  /-- CFG_M, the largest word, 2^W − 1. -/
  m : Word
  /-- CFG_SIGN, 2^(W−1). -/
  sign : Word
  /-- CFG_SMAX, 2^(W−1) − 1. -/
  smax : Word
  /-- CFG_NREG, the register count. -/
  nreg : Word
  /-- CFG_SLEN, the static data length in words. -/
  slen : Word
  /-- CFG_HEAP, the heap size in words. -/
  heap : Word
  /-- CFG_STACK, the stack size in words. -/
  stack : Word
  /-- CFG_MSIZE, the data memory size in words. -/
  msize : Word
  /-- CFG_HSB, the heap/stack boundary. -/
  hsb : Word
  /-- CFG_PLEN, the program length in instructions; unbounded (D33). -/
  plen : Nat
  deriving DecidableEq, Repr

/-- The configuration registers before the first load and after a failed one: no value (R40, R356),
kept as 0. -/
def Cfg.none : Cfg :=
  { w := .unset, m := 0, sign := 0, smax := 0, nreg := 0, slen := 0, heap := 0, stack := 0, msize := 0
    hsb := 0, plen := 0 }

/-- STATUS, the host-visible status register (R41). -/
inductive Status where
  | unloaded
  | ready
  | halted
  | awaitingInput
  | faulted
  deriving DecidableEq, Repr

/-- PENDING, the pending writeback target of a suspended IN (R43). -/
structure Pending where
  /-- PENDING.valid. -/
  valid : Bool
  /-- PENDING.kind, the kind code of the destination operand. -/
  kind : Kind
  /-- PENDING.value, the value field of the destination operand. -/
  value : Word
  /-- PENDING.index, the instruction index of the suspended IN. -/
  index : Word
  deriving DecidableEq, Repr

/-- PENDING holding no target. -/
def Pending.none : Pending := { valid := false, kind := .imm, value := 0, index := 0 }

/-- FAULT_CODE (R320). -/
inductive FaultCode where
  | none
  | stackOverflow
  | stackUnderflow
  | loadOutOfBounds
  | storeOutOfBounds
  | unknownOpcode
  | badOperandKind
  | divByZero
  deriving DecidableEq, Repr

/-- FAULT_ACCESS (R44). -/
inductive FaultAccess where
  | none
  | load
  | store
  deriving DecidableEq, Repr

/-- The fault registers FAULT_* (R44). -/
structure FaultRecord where
  /-- FAULT_CODE. -/
  code : FaultCode
  /-- FAULT_PC, the index of the faulting instruction. -/
  pc : Word
  /-- FAULT_ADDR, the offending data address; it may exceed M (R67). -/
  addr : Nat
  /-- FAULT_ACCESS. -/
  access : FaultAccess
  /-- FAULT_REGS, the snapshot of x[0..NREG−1]. -/
  regs : List Word
  deriving DecidableEq, Repr

/-- The fault registers as load and reset() clear them (R355). -/
def FaultRecord.none : FaultRecord := { code := .none, pc := 0, addr := 0, access := .none, regs := [] }

/-- LOAD_ERR (R330). -/
inductive LoadErr where
  | none
  | unsupportedRunMode
  | bitsOutOfRange
  | registerCountTooLarge
  | memorySizeTooLarge
  | missingHeader
  | malformedInstruction
  deriving DecidableEq, Repr

/-- The port registry (R46). A bound function is named by the number of the device that bound it: the
devices themselves are outside the block (R5). -/
structure Registry where
  /-- IN_MAP: port number to the device whose input function is bound; an unlisted port is absent. -/
  inMap : List (Word × Nat)
  /-- OUT_MAP: port number to the device whose output function is bound. -/
  outMap : List (Word × Nat)
  /-- RESET_LIST: the devices whose reset hooks are registered, in registration order. -/
  resetList : List Nat
  deriving DecidableEq, Repr

/-- The values of the RUN header (R107): ROM, RAM, or any other spelling. -/
inductive RunMode where
  | rom
  | ram
  | other (spelling : String)
  deriving DecidableEq, Repr

/-- The header table of a compiled program (R90, R107, R351). A field is `none` where the program does not
declare that header; `others` are the headers the block ignores. -/
structure Headers where
  bits : Option Nat
  minheap : Option Nat
  minstack : Option Nat
  minreg : Option Nat
  run : Option RunMode
  others : List (String × Nat)
  deriving DecidableEq, Repr

/-- A header table that declares nothing. -/
def Headers.empty : Headers :=
  { bits := .none, minheap := .none, minstack := .none, minreg := .none, run := .none, others := [] }

/-- One instruction as the compiler hands it over: in the packed form of R95, or as the abstract record of
R91 with its parallel kind-code and value sequences, whose lengths the load checks (R354). -/
inductive CodeItem where
  | packed (w : PackedWord)
  | fields (opc : BitVec 8) (kinds : List (BitVec 2)) (values : List Nat)
  deriving DecidableEq, Repr

/-- A compiled program as `load` receives it (R90): its instructions, its headers and its static data,
whose words may be wider than W (D13). Debug info has no effect on execution (R90) and is left out. -/
structure Program where
  code : List CodeItem
  headers : Headers
  static : List Nat
  deriving DecidableEq, Repr

/-- The program store (R48): the loaded program, its instructions as packed records. -/
structure ProgramStore where
  code : List PackedWord
  headers : Headers
  static : List Nat
  deriving DecidableEq, Repr

/-- The empty program store, before any load and after a failed one (R356). -/
def ProgramStore.empty : ProgramStore := { code := [], headers := Headers.empty, static := [] }

/-- What the environment supplies to input functions (R303): the input script still to be consumed, and
the model's own count of free answers drawn after the script ran out. -/
structure Oracle where
  script : List InputAnswer
  draws : Nat
  deriving DecidableEq, Repr

/-- The output history (R303): an output delivered to a bound port, or the call of the reset hook at a
position of RESET_LIST. -/
inductive OutputEvent where
  | out (port value : Word)
  | reset (position : Nat)
  deriving DecidableEq, Repr

/-- The two warnings (R329). -/
inductive WarningKind where
  | unboundInput
  | unboundOutput
  deriving DecidableEq, Repr

/-- The diagnostic history (R303, R322): warnings and fault reports. -/
inductive DiagnosticEvent where
  | warn (kind : WarningKind) (port : Word)
  | faultReport (r : FaultRecord)
  deriving DecidableEq, Repr

/-- The data memory (R60, R64) as a list of (address, word) pairs: addresses strictly rising, no entry
equal to what an unlisted address reads as. -/
abbrev Memory := List (Nat × Word)

/-- What an unlisted address of the data memory reads as: 0, the value load gives every word outside the
static data (R62, R355). -/
def Memory.unlisted : Word := 0

/-- The canonical form of the data memory. -/
abbrev Memory.wf (m : Memory) : Prop :=
  m.Pairwise (fun c d => c.1 < d.1) ∧ ∀ c ∈ m, c.2 ≠ Memory.unlisted

/-- The state of the block. -/
structure State where
  /-- The configuration registers CFG_* (R40). -/
  cfg : Cfg
  /-- STATUS (R41). -/
  status : Status
  /-- The register file x[0 .. NREG−1] (R30): x[0] is the PC (R32), x[1] the SP (R33). -/
  regs : List Word
  /-- The data memory (R60 to R64). -/
  mem : Memory
  /-- PENDING (R43). -/
  pending : Pending
  /-- The fault registers FAULT_* (R44). -/
  fault : FaultRecord
  /-- LOAD_ERR (R45). -/
  loadErr : LoadErr
  /-- The port registry (R46). -/
  registry : Registry
  /-- The program store (R48). -/
  prog : ProgramStore
  /-- The input script and the model's draw counter (R303). -/
  oracle : Oracle
  /-- The output history (R303). -/
  output : List OutputEvent
  /-- The diagnostic history (R303, R322). -/
  diagnostics : List DiagnosticEvent
  deriving DecidableEq, Repr

/-- Why the model stops where the spec has no rule. Both reasons need a state that no load produces
(R98, R355); raising them is safe. The spec's own fatal faults are not here: they are next states with
STATUS = FAULTED (R321). -/
inductive Fault where
  /-- An operand, the PC or the SP names a register at or past the end of the register file. Raised by
  reading or writing a register; the load check of R98 excludes it. Safe. -/
  | registerOutsideFile (index : Nat)
  /-- CFG_PLEN is larger than the number of records in the program store. Raised by the fetch; R355
  excludes it. Safe. -/
  | programStoreHole (index : Nat)
  deriving DecidableEq, Repr

/-- Why a call is refused without a transition. -/
inductive Refusal where
  /-- An instruction with no meaning yet. Raised by no arm of this model. Safe. -/
  | notModelled (mnemonic : String)
  /-- `step` or `run` while STATUS is UNLOADED, AWAITING_INPUT or FAULTED (R121, R362): the spec refuses
  the call. Raised by the step. Safe. -/
  | callRefused (status : Status)
  /-- The fetched record violates R102 (RSV or an unused slot is not 0). A load refuses such a program
  (R354), so only a state no load produces holds one. Raised by the step. Safe. -/
  | malformedRecord
  deriving DecidableEq, Repr

/-- The outcome of one step of this machine. -/
abbrev Outcome := Host.Outcome State Fault Refusal

/-- The machine at power-on (R50, R350): UNLOADED, no load error, an empty registry. Nothing else holds a
value; the model keeps 0 and the empty file, memory, store, script and histories. -/
def State.reset : State :=
  { cfg := Cfg.none
    status := .unloaded
    regs := []
    mem := []
    pending := Pending.none
    fault := FaultRecord.none
    loadErr := .none
    registry := { inMap := [], outMap := [], resetList := [] }
    prog := ProgramStore.empty
    oracle := { script := [], draws := 0 }
    output := []
    diagnostics := [] }

/-! The named updates of the state that a step makes. -/

/-- Replace the register file. -/
def State.withRegs (s : State) (r : List Word) : State := { s with regs := r }

/-- Replace the data memory. -/
def State.withMem (s : State) (m : Memory) : State := { s with mem := m }

/-- Replace STATUS. -/
def State.withStatus (s : State) (st : Status) : State := { s with status := st }

/-- Replace PENDING. -/
def State.withPending (s : State) (p : Pending) : State := { s with pending := p }

/-- Replace the fault registers. -/
def State.withFault (s : State) (f : FaultRecord) : State := { s with fault := f }

/-- Replace the input script and the draw counter. -/
def State.withOracle (s : State) (o : Oracle) : State := { s with oracle := o }

/-- Append an event to the output history. -/
def State.emit (s : State) (e : OutputEvent) : State := { s with output := s.output ++ [e] }

/-- Append an event to the diagnostic history. -/
def State.report (s : State) (e : DiagnosticEvent) : State :=
  { s with diagnostics := s.diagnostics ++ [e] }

end Sys2Proof.Machine
end

