-- ==== Sys2Proof/Machine/Ops.lean ====
section
/-! DEFINITION. The named operations over registers and memory (20_memory.md), the port registry's calls
(45_io.md), taking a fatal fault (60_exceptions.md R321) with the recovery from it beside it, and the
fetch (40_execution_cycle.md R122 to R124). -/

namespace Sys2Proof.Machine

/-! Width arithmetic (R10). -/

/-- `trunc_W(v)`, the word v mod 2^W (R10). -/
def trunc (w : Width) (v : Int) : Word := BitVec.ofNat 32 (v % (2 ^ w.bits : Int)).toNat

/-- `signed_W(v)`: v − 2^W if v >= SIGN, else v (R10). -/
def signed (c : Cfg) (v : Word) : Int :=
  if v.toNat ≥ c.sign.toNat then (v.toNat : Int) - 2 ^ c.w.bits else v.toNat

/-- W for a declared bit count `b` in 1..32 (R6). -/
def widthFor (b : Nat) : Width := if b ≤ 8 then .w8 else if b ≤ 16 then .w16 else .w32

/-- `max_value` = 2^W − 1 (R7). -/
def Width.maxValue (w : Width) : Nat := 2 ^ w.bits - 1

/-- `sign_bit` = 2^(W−1) (R7). -/
def Width.signBit (w : Width) : Nat := 2 ^ (w.bits - 1)

/-- `max_signed` = 2^(W−1) − 1 (R7). -/
def Width.maxSigned (w : Width) : Nat := 2 ^ (w.bits - 1) - 1

/-- How a piece of a step ends: with a result; by raising a fatal fault, `s` being the state with every
effect committed so far (R323); or stuck where the spec has no rule. -/
inductive Res (α : Type) where
  | ok (a : α)
  | raise (code : FaultCode) (info : Nat) (s : State)
  | stuck (f : Fault)

/-- Go on with the result; a raised fault or a stop ends the step at once (R321 "abort"). -/
def Res.bind {α β : Type} (r : Res α) (k : α → Res β) : Res β :=
  match r with
  | .ok a => k a
  | .raise code info s => .raise code info s
  | .stuck f => .stuck f

/-! Register file (10_state.md). -/

/-- `x[i]` (R30, R35). -/
def readReg (i : Nat) (s : State) : Res Word :=
  match s.regs[i]? with
  | some v => .ok v
  | none => .stuck (.registerOutsideFile i)

/-- `x[i] <- v`: the register stores trunc_W(v) (R30). -/
def writeReg (i : Nat) (v : Int) (s : State) : Res State :=
  if i < s.regs.length then .ok (s.withRegs (s.regs.set i (trunc s.cfg.w v)))
  else .stuck (.registerOutsideFile i)

/-- The index of the PC in the register file (R32). -/
def pcIndex : Nat := 0

/-- The index of the SP in the register file (R33). -/
def spIndex : Nat := 1

/-! Data memory (20_memory.md). -/

/-- The word at an address; an unlisted address reads as 0 (R62). -/
def Memory.read (a : Nat) : Memory → Word
  | [] => Memory.unlisted
  | (b, v) :: rest => if a = b then v else Memory.read a rest

/-- Store a word at an address, keeping the canonical form: storing what an unlisted address reads as
removes the entry. -/
def Memory.write (a : Nat) (v : Word) : Memory → Memory
  | [] => if v = Memory.unlisted then [] else [(a, v)]
  | (b, u) :: rest =>
    if a < b then (if v = Memory.unlisted then (b, u) :: rest else (a, v) :: (b, u) :: rest)
    else if a = b then (if v = Memory.unlisted then rest else (a, v) :: rest)
    else (b, u) :: Memory.write a v rest

/-- The memory whose words from address `i` on are the static data, each truncated to W bits (R355,
D13), and 0 after them. -/
def Memory.preload (w : Width) (i : Nat) : List Nat → Memory
  | [] => []
  | x :: rest =>
    if trunc w x = Memory.unlisted then Memory.preload w (i + 1) rest
    else (i, trunc w x) :: Memory.preload w (i + 1) rest

/-- MSIZE as a number. -/
def State.msize (s : State) : Nat := s.cfg.msize.toNat

/-- HSB as a number. -/
def State.hsb (s : State) : Nat := s.cfg.hsb.toNat

/-- `MemRead(addr, 1)` (R65). -/
def memRead (addr : Nat) (s : State) : Res Word :=
  if addr ≥ s.msize then .raise .loadOutOfBounds addr s else .ok (s.mem.read addr)

/-- `MemWrite(addr, 1, v)` (R66). -/
def memWrite (addr : Nat) (v : Word) (s : State) : Res State :=
  if addr ≥ s.msize then .raise .storeOutOfBounds addr s
  else .ok (s.withMem (s.mem.write addr (trunc s.cfg.w v.toNat)))

/-- `Push(v)` (R69): the overflow check, the decrement, then the write through the bounds check. -/
def push (v : Word) (s : State) : Res State :=
  (readReg spIndex s).bind fun sp =>
    if sp.toNat ≤ s.hsb then .raise .stackOverflow sp.toNat s
    else (writeReg spIndex ((sp.toNat : Int) - 1) s).bind fun s1 =>
      (readReg spIndex s1).bind fun sp1 => memWrite sp1.toNat v s1

/-- `Pop()` (R70): the underflow check, the read, then the increment. -/
def pop (s : State) : Res (Word × State) :=
  (readReg spIndex s).bind fun sp =>
    if sp.toNat ≥ s.msize then .raise .stackUnderflow sp.toNat s
    else (memRead sp.toNat s).bind fun v =>
      (writeReg spIndex ((sp.toNat : Int) + 1) s).bind fun s1 => .ok (v, s1)

/-! The port registry (45_io.md). -/

/-- The device bound to a port in a port map, or absent (R290). -/
def boundDevice (m : List (Word × Nat)) (port : Word) : Option Nat :=
  (m.find? fun e => decide (e.1 = port)).map Prod.snd

/-- Bind a port to a device, overwriting any prior binding (R291). -/
def bindPort (device : Nat) (port : Word) (m : List (Word × Nat)) : List (Word × Nat) :=
  (port, device) :: m.filter fun e => decide (e.1 ≠ port)

/-- The three results of an input request (R292). -/
inductive InResult where
  | value (v : Nat)
  | pending
  | unbound
  deriving DecidableEq, Repr

/-- The result an input function's answer stands for (R292). -/
def InResult.ofAnswer : InputAnswer → InResult
  | .value v => .value v
  | .pending => .pending

/-- `in(port)` (R292). A bound input function consumes the next element of the input script (R303); after
the script it answers freely (`Config.deviceAnswer`). -/
def portIn (port : Word) (s : State) : InResult × State :=
  match boundDevice s.registry.inMap port with
  | none => (.unbound, s.report (.warn .unboundInput port))
  | some device =>
    match s.oracle.script with
    | answer :: rest => (.ofAnswer answer, s.withOracle { s.oracle with script := rest })
    | [] =>
      (.ofAnswer (Config.deviceAnswer device port s.oracle.draws),
        s.withOracle { s.oracle with draws := s.oracle.draws + 1 })

/-- `out(port, value)` (R293). -/
def portOut (port value : Word) (s : State) : State :=
  match boundDevice s.registry.outMap port with
  | none => s.report (.warn .unboundOutput port)
  | some _ => s.emit (.out port value)

/-! Taking a fatal fault, and the recovery from it. -/

/-- FAULT_ADDR for a fault: the offending address of a bounds fault, otherwise 0 (R321). -/
def faultAddr (code : FaultCode) (info : Nat) : Nat :=
  match code with
  | .loadOutOfBounds => info
  | .storeOutOfBounds => info
  | _ => 0

/-- FAULT_ACCESS for a fault (R321). -/
def faultAccess (code : FaultCode) : FaultAccess :=
  match code with
  | .loadOutOfBounds => .load
  | .storeOutOfBounds => .store
  | _ => .none

/-- The fault registers a fault at instruction index `pc` writes (R321); the snapshot is taken after every
effect already committed (R323). -/
def faultRecord (code : FaultCode) (pc : Word) (info : Nat) (s : State) : FaultRecord :=
  { code := code, pc := pc, addr := faultAddr code info, access := faultAccess code, regs := s.regs }

/-- `raise Fault(code, info)` at instruction index `pc` (R321): the one operation that takes a fatal
fault. The fault report goes to the diagnostic history (R322). -/
def raiseFault (code : FaultCode) (pc : Word) (info : Nat) (s : State) : State :=
  ((((s.withFault (faultRecord code pc info s)).withPending
    { s.pending with valid := false }).withStatus .faulted).report
      (.faultReport (faultRecord code pc info s)))

/-- The data a load and a reset() initialise alike (R355, R357): registers, memory, PENDING, FAULT_* and
STATUS, from the configuration and the program store. It is the only way out of FAULTED (R324); the block
has no return-from-fault instruction (R327). -/
def reinitialise (s : State) : State :=
  { s with
    regs := 0 :: s.cfg.msize :: List.replicate (s.cfg.nreg.toNat - 2) 0
    mem := Memory.preload s.cfg.w 0 s.prog.static
    pending := { s.pending with valid := false }
    fault := FaultRecord.none
    status := .ready }

/-- How a step over a fetched instruction at index `cur` ends: a raised fault is taken (R321), and its
outcome is the faulted state. -/
def finish (cur : Word) : Res State → Outcome
  | .ok s => .next s
  | .raise code info s => .next (raiseFault code cur info s)
  | .stuck f => .fault f

/-! Fetch (R122 to R124). -/

/-- STATUS admits a step (R121). -/
def State.steppable (s : State) : Bool := decide (s.status = .ready) || decide (s.status = .halted)

/-- `x[0] <- trunc_W(cur + 1)` (R122). -/
def advance (cur : Word) (s : State) : Res State := writeReg pcIndex ((cur.toNat : Int) + 1) s

/-- What the fetch finds at the PC. -/
inductive Fetched where
  | pastEnd
  | instr (i : Instr)
  | unknown
  | malformed
  | stuck (f : Fault)
  deriving DecidableEq, Repr

/-- Read the program store at the PC: past the end (R123), a decoded instruction, or an opcode outside
the table (R124). -/
def fetch (s : State) : Fetched :=
  match s.regs[pcIndex]? with
  | none => .stuck (.registerOutsideFile pcIndex)
  | some cur =>
    if cur.toNat ≥ s.cfg.plen then .pastEnd
    else match s.prog.code[cur.toNat]? with
      | none => .stuck (.programStoreHole cur.toNat)
      | some w =>
        match decode w with
        | .ok i => .instr i
        | .error .unknownOpcode => .unknown
        | .error .reservedBits => .malformed
        | .error .unusedSlot => .malformed

/-- Run the body of a step on the state whose PC is advanced, `cur` being the fetched index (R122). -/
def withCur (s : State) (body : Word → State → Res State) : Outcome :=
  match s.regs[pcIndex]? with
  | none => .fault (.registerOutsideFile pcIndex)
  | some cur => finish cur ((advance cur s).bind (body cur))

/-- A halting step (R123): PC advanced, STATUS = HALTED, nothing else. -/
def haltStep (s : State) : Outcome := withCur s fun _ s1 => .ok (s1.withStatus .halted)

/-- A step that fetches an unknown opcode (R101, R124). -/
def unknownOpcodeStep (s : State) : Outcome := withCur s fun _ s1 => .raise .unknownOpcode 0 s1

/-- Put a record at the PC of a loaded machine, HLT records filling a gap before it, and make the machine
ready to step. -/
def placeAtPc (w : PackedWord) (s : State) : State :=
  let cur := ((s.regs[pcIndex]?).getD 0).toNat
  let padded := s.prog.code ++ List.replicate (cur + 1 - s.prog.code.length) (encode .hlt)
  let code := padded.set cur w
  { s with
    prog := { s.prog with code := code }
    cfg := { s.cfg with plen := code.length }
    status := .ready
    pending := { s.pending with valid := false } }

end Sys2Proof.Machine
end

