-- ==== Sys2Proof/Machine/Operands.lean ====
section
/-! DEFINITION. The operand resolver and the instruction dispatcher (40_execution_cycle.md R125 to R133):
resolving an operand, writing a target, the input pass, the execution function's interface, the writeback
pass, and the whole step over one decoded instruction. -/

namespace Sys2Proof.Machine

/-- `Resolve(j)`, the value of an operand (R125). -/
def resolve (o : Operand) (s : State) : Res Word :=
  match o.kind with
  | .imm => .ok o.value
  | .reg => readReg o.value.toNat s
  | .unknown2 => .raise .badOperandKind 0 s
  | .unknown3 => .raise .badOperandKind 0 s

/-- `WriteTarget(j, v)` (R126): an Imm target discards the value. -/
def writeTarget (o : Operand) (v : Int) (s : State) : Res State :=
  match o.kind with
  | .imm => .ok s
  | .reg => writeReg o.value.toNat v s
  | .unknown2 => .raise .badOperandKind 0 s
  | .unknown3 => .raise .badOperandKind 0 s

/-- The operand slot array ops[0..2], written a, b, c in the rules (R11, R47). -/
structure Slots where
  a : Word
  b : Word
  c : Word
  deriving DecidableEq, Repr

/-- The slot array before the input pass (R127). -/
def Slots.zero : Slots := { a := 0, b := 0, c := 0 }

/-- Set slot `j`. -/
def Slots.put (j : Nat) (v : Word) (o : Slots) : Slots :=
  match j with
  | 0 => { o with a := v }
  | 1 => { o with b := v }
  | _ => { o with c := v }

/-- Read slot `j`. -/
def Slots.at (j : Nat) (o : Slots) : Word :=
  match j with
  | 0 => o.a
  | 1 => o.b
  | _ => o.c

/-- Pass 1, the input pass, from operand `j` on (R127, R128); `off` is the RAM offset latch. An output
slot starts at 0 (D10). -/
def inputPass (s : State) (j off : Nat) (o : Slots) : List (Role × Operand) → Res (Slots × Nat)
  | [] => .ok (o, off)
  | (.get, x) :: rest =>
    (resolve x s).bind fun v => inputPass s (j + 1) off (o.put j v) rest
  | (.getRam, x) :: rest =>
    (resolve x s).bind fun v =>
      (memRead (v.toNat + off) s).bind fun u => inputPass s (j + 1) off (o.put j u) rest
  | (.ramOffset, x) :: rest =>
    (resolve x s).bind fun v => inputPass s (j + 1) v.toNat (o.put j v) rest
  | (.set, _) :: rest => inputPass s (j + 1) off (o.put j 0) rest
  | (.setRam, _) :: rest => inputPass s (j + 1) off (o.put j 0) rest

/-- Pass 2, the writeback pass, from operand `j` on (R130). A SET_RAM resolves its address now and adds the
final offset (R128). -/
def writebackPass (j off : Nat) (o : Slots) : List (Role × Operand) → State → Res State
  | [], s => .ok s
  | (.set, x) :: rest, s =>
    (writeTarget x (o.at j).toNat s).bind (writebackPass (j + 1) off o rest)
  | (.setRam, x) :: rest, s =>
    (resolve x s).bind fun v =>
      (memWrite (v.toNat + off) (o.at j) s).bind (writebackPass (j + 1) off o rest)
  | (.get, _) :: rest, s => writebackPass (j + 1) off o rest s
  | (.getRam, _) :: rest, s => writebackPass (j + 1) off o rest s
  | (.ramOffset, _) :: rest, s => writebackPass (j + 1) off o rest s

/-- What an execution function returns (R100): complete, with the slot array it leaves, or incomplete,
awaiting input. -/
inductive FnResult where
  | complete (o : Slots) (s : State)
  | incomplete (s : State)

/-- An execution function: it receives the slot array and the machine (R132). -/
abbrev Fn := Slots → State → Res FnResult

/-- The destination a suspension records: the first SET operand (R129). Without one nothing would be
written, as for an Imm target. -/
def suspendTarget (ops : List (Role × Operand)) : Operand :=
  ((ops.find? fun e => decide (e.1 = .set)).map Prod.snd).getD emptySlot

/-- Suspend the instruction at index `cur` (R129, R296): no writeback. -/
def suspend (cur : Word) (target : Operand) (s : State) : State :=
  (s.withPending { valid := true, kind := target.kind, value := target.value, index := cur }).withStatus
    .awaitingInput

/-- The rest of the step after the execution function (R129, R130). -/
def afterFn (cur : Word) (off : Nat) (ops : List (Role × Operand)) : FnResult → Res State
  | .incomplete s => .ok (suspend cur (suspendTarget ops) s)
  | .complete o s => (writebackPass 0 off o ops s).bind fun s1 => .ok (s1.withStatus .ready)

/-- The step over one decoded instruction with its operand roles and its execution function (R131): the
PC advance, pass 1, the function, pass 2. -/
def runInstr (ops : List (Role × Operand)) (fn : Fn) (s : State) : Outcome :=
  withCur s fun cur s1 =>
    (inputPass s1 0 0 Slots.zero ops).bind fun r =>
      (fn r.1 s1).bind (afterFn cur r.2 ops)

/-! The execution functions that several instructions share. -/

/-- `a <- trunc_W(f(b))`. -/
def fnUnary (f : Cfg → Word → Int) : Fn := fun o s =>
  .ok (.complete { o with a := trunc s.cfg.w (f s.cfg o.b) } s)

/-- `a <- trunc_W(f(b, c))` (R180). -/
def fnBinary (f : Cfg → Word → Word → Int) : Fn := fun o s =>
  .ok (.complete { o with a := trunc s.cfg.w (f s.cfg o.b o.c) } s)

/-- `if c = 0: raise Fault(DIV_BY_ZERO); a <- trunc_W(f(b, c))` (R188 to R190, D22). -/
def fnDivide (f : Cfg → Word → Word → Int) : Fn := fun o s =>
  if o.c.toNat = 0 then .raise .divByZero 0 s
  else .ok (.complete { o with a := trunc s.cfg.w (f s.cfg o.b o.c) } s)

/-- `a <- T if cond(b, c) else 0`, T = M (R181, section 5 of 42_alu.md). -/
def fnSetIf (cond : Cfg → Word → Word → Bool) : Fn := fun o s =>
  .ok (.complete { o with a := if cond s.cfg o.b o.c then s.cfg.m else 0 } s)

/-- `a <- b`. -/
def fnCopyB : Fn := fun o s => .ok (.complete { o with a := o.b } s)

/-- `a <- c`. -/
def fnCopyC : Fn := fun o s => .ok (.complete { o with a := o.c } s)

/-- `return false` and nothing else. -/
def fnNothing : Fn := fun o s => .ok (.complete o s)

/-- `x[0] <- target` from inside the execution function (R240). -/
def jumpTo (target : Word) (o : Slots) (s : State) : Res FnResult :=
  (writeReg pcIndex target.toNat s).bind fun s1 => .ok (.complete o s1)

/-- `if cond(b): x[0] <- a` (43_control_transfer.md section 3). -/
def fnBranchUnary (cond : Cfg → Word → Bool) : Fn := fun o s =>
  if cond s.cfg o.b then jumpTo o.a o s else .ok (.complete o s)

/-- `if cond(b, c): x[0] <- a` (43_control_transfer.md sections 2, 4 and 5). -/
def fnBranchBinary (cond : Cfg → Word → Word → Bool) : Fn := fun o s =>
  if cond s.cfg o.b o.c then jumpTo o.a o s else .ok (.complete o s)

end Sys2Proof.Machine
end

