-- ==== Sys2Proof/Machine/Arithmetic.lean ====
section
/-! DEFINITION. The arithmetic instructions ADD, SUB, INC, DEC, NEG, MLT, DIV, MOD, SDIV, ABS (42_alu.md
section 2). Results are computed on integers and reduced with trunc_W (R180). -/

namespace Sys2Proof.Machine

/-- b + c (R182). -/
def aluAdd (_ : Cfg) (b c : Word) : Int :=
  (b.toNat : Int) + c.toNat

/-- ADD (R182): `a <- trunc_W(b + c)`. -/
def execAdd (a b c : Operand) (s : State) : Outcome :=
  runInstr [(.set, a), (.get, b), (.get, c)] (fnBinary aluAdd) s

/-- b − c (R183). -/
def aluSub (_ : Cfg) (b c : Word) : Int :=
  (b.toNat : Int) - c.toNat

/-- SUB (R183): `a <- trunc_W(b − c)`. -/
def execSub (a b c : Operand) (s : State) : Outcome :=
  runInstr [(.set, a), (.get, b), (.get, c)] (fnBinary aluSub) s

/-- b + 1 (R184). -/
def aluInc (_ : Cfg) (b : Word) : Int :=
  (b.toNat : Int) + 1

/-- INC (R184): `a <- trunc_W(b + 1)`. -/
def execInc (a b : Operand) (s : State) : Outcome :=
  runInstr [(.set, a), (.get, b)] (fnUnary aluInc) s

/-- b − 1 (R185). -/
def aluDec (_ : Cfg) (b : Word) : Int :=
  (b.toNat : Int) - 1

/-- DEC (R185): `a <- trunc_W(b − 1)`. -/
def execDec (a b : Operand) (s : State) : Outcome :=
  runInstr [(.set, a), (.get, b)] (fnUnary aluDec) s

/-- 0 − b (R186). -/
def aluNeg (_ : Cfg) (b : Word) : Int :=
  0 - (b.toNat : Int)

/-- NEG (R186): `a <- trunc_W(0 − b)`. -/
def execNeg (a b : Operand) (s : State) : Outcome :=
  runInstr [(.set, a), (.get, b)] (fnUnary aluNeg) s

/-- b · c, the exact product (D25) (R187). -/
def aluMlt (_ : Cfg) (b c : Word) : Int :=
  (b.toNat : Int) * c.toNat

/-- MLT (R187): `a <- trunc_W(b · c)`. -/
def execMlt (a b c : Operand) (s : State) : Outcome :=
  runInstr [(.set, a), (.get, b), (.get, c)] (fnBinary aluMlt) s

/-- floor(b / c) (R188). -/
def aluDiv (_ : Cfg) (b c : Word) : Int :=
  ((b.toNat / c.toNat : Nat) : Int)

/-- DIV (R188): if c = 0, DIV_BY_ZERO; else `a <- trunc_W(floor(b / c))`. -/
def execDiv (a b c : Operand) (s : State) : Outcome :=
  runInstr [(.set, a), (.get, b), (.get, c)] (fnDivide aluDiv) s

/-- b − c · floor(b / c) (R189). -/
def aluMod (_ : Cfg) (b c : Word) : Int :=
  (b.toNat : Int) - c.toNat * ((b.toNat / c.toNat : Nat) : Int)

/-- MOD (R189): if c = 0, DIV_BY_ZERO; else `a <- trunc_W(b − c · floor(b / c))`. -/
def execMod (a b c : Operand) (s : State) : Outcome :=
  runInstr [(.set, a), (.get, b), (.get, c)] (fnDivide aluMod) s

/-- signed_W(b) / signed_W(c), rounded toward zero (D37) (R190). -/
def aluSdiv (cfg : Cfg) (b c : Word) : Int :=
  (signed cfg b).tdiv (signed cfg c)

/-- SDIV (R190): if c = 0, DIV_BY_ZERO; else the signed quotient, truncated. -/
def execSdiv (a b c : Operand) (s : State) : Outcome :=
  runInstr [(.set, a), (.get, b), (.get, c)] (fnDivide aluSdiv) s

/-- |signed_W(b)| (R191). -/
def aluAbs (cfg : Cfg) (b : Word) : Int :=
  ((signed cfg b).natAbs : Int)

/-- ABS (R191): `a <- trunc_W(|signed_W(b)|)`. -/
def execAbs (a b : Operand) (s : State) : Outcome :=
  runInstr [(.set, a), (.get, b)] (fnUnary aluAbs) s

end Sys2Proof.Machine
end

