-- ==== Sys2Proof/Machine/Bitwise.lean ====
section
/-! DEFINITION. The bitwise instructions AND, OR, XOR, NOR, NAND, XNOR, NOT (42_alu.md section 3). -/

namespace Sys2Proof.Machine

/-- b & c (R192). -/
def aluAnd (_ : Cfg) (b c : Word) : Int :=
  ((b &&& c).toNat : Int)

/-- AND (R192): `a <- b & c`. -/
def execAnd (a b c : Operand) (s : State) : Outcome :=
  runInstr [(.set, a), (.get, b), (.get, c)] (fnBinary aluAnd) s

/-- b | c (R193). -/
def aluOr (_ : Cfg) (b c : Word) : Int :=
  ((b ||| c).toNat : Int)

/-- OR (R193): `a <- b | c`. -/
def execOr (a b c : Operand) (s : State) : Outcome :=
  runInstr [(.set, a), (.get, b), (.get, c)] (fnBinary aluOr) s

/-- b ^ c (R194). -/
def aluXor (_ : Cfg) (b c : Word) : Int :=
  ((b ^^^ c).toNat : Int)

/-- XOR (R194): `a <- b ^ c`. -/
def execXor (a b c : Operand) (s : State) : Outcome :=
  runInstr [(.set, a), (.get, b), (.get, c)] (fnBinary aluXor) s

/-- M − (b | c) (R195). -/
def aluNor (cfg : Cfg) (b c : Word) : Int :=
  (cfg.m.toNat : Int) - (b ||| c).toNat

/-- NOR (R195): `a <- M − (b | c)`. -/
def execNor (a b c : Operand) (s : State) : Outcome :=
  runInstr [(.set, a), (.get, b), (.get, c)] (fnBinary aluNor) s

/-- M − (b & c) (R196). -/
def aluNand (cfg : Cfg) (b c : Word) : Int :=
  (cfg.m.toNat : Int) - (b &&& c).toNat

/-- NAND (R196): `a <- M − (b & c)`. -/
def execNand (a b c : Operand) (s : State) : Outcome :=
  runInstr [(.set, a), (.get, b), (.get, c)] (fnBinary aluNand) s

/-- M − (b ^ c) (R197). -/
def aluXnor (cfg : Cfg) (b c : Word) : Int :=
  (cfg.m.toNat : Int) - (b ^^^ c).toNat

/-- XNOR (R197): `a <- M − (b ^ c)`. -/
def execXnor (a b c : Operand) (s : State) : Outcome :=
  runInstr [(.set, a), (.get, b), (.get, c)] (fnBinary aluXnor) s

/-- M − b (R198). -/
def aluNot (cfg : Cfg) (b : Word) : Int :=
  (cfg.m.toNat : Int) - b.toNat

/-- NOT (R198): `a <- M − b`. -/
def execNot (a b : Operand) (s : State) : Outcome :=
  runInstr [(.set, a), (.get, b)] (fnUnary aluNot) s

end Sys2Proof.Machine
end

