-- ==== Sys2Proof/Machine/Flags.lean ====
section
/-! DEFINITION. The conditions that branches and set instructions compute from their operands. The block
has no flags or condition codes (R39): every condition below is a function of the operand words and the
width constants. -/

namespace Sys2Proof.Machine

/-- `carry(b, c)`: b + c > M, the carry out of the W-bit addition (R181). -/
def carry (cfg : Cfg) (b c : Word) : Bool := decide (b.toNat + c.toNat > cfg.m.toNat)

/-- `b + c <= M` (R212, R256). -/
def noCarry (cfg : Cfg) (b c : Word) : Bool := decide (b.toNat + c.toNat ≤ cfg.m.toNat)

/-- `b = c` (R205, R247). -/
def condEq (_ : Cfg) (b c : Word) : Bool := decide (b.toNat = c.toNat)

/-- `b ≠ c` (R206, R248). -/
def condNe (_ : Cfg) (b c : Word) : Bool := decide (b.toNat ≠ c.toNat)

/-- `b > c`, unsigned (R207, R245). -/
def condGt (_ : Cfg) (b c : Word) : Bool := decide (b.toNat > c.toNat)

/-- `b < c`, unsigned (R208, R244). -/
def condLt (_ : Cfg) (b c : Word) : Bool := decide (b.toNat < c.toNat)

/-- `b >= c`, unsigned (R209, R243). -/
def condGe (_ : Cfg) (b c : Word) : Bool := decide (b.toNat ≥ c.toNat)

/-- `b <= c`, unsigned (R210, R246). -/
def condLe (_ : Cfg) (b c : Word) : Bool := decide (b.toNat ≤ c.toNat)

/-- `signed_W(b) < signed_W(c)` (R213, R257). -/
def condSignedLt (cfg : Cfg) (b c : Word) : Bool := decide (signed cfg b < signed cfg c)

/-- `signed_W(b) > signed_W(c)` (R214, R258). -/
def condSignedGt (cfg : Cfg) (b c : Word) : Bool := decide (signed cfg b > signed cfg c)

/-- `signed_W(b) <= signed_W(c)` (R215, R259). -/
def condSignedLe (cfg : Cfg) (b c : Word) : Bool := decide (signed cfg b ≤ signed cfg c)

/-- `signed_W(b) >= signed_W(c)` (R216, R260). -/
def condSignedGe (cfg : Cfg) (b c : Word) : Bool := decide (signed cfg b ≥ signed cfg c)

/-- `b = 0` (R249). -/
def condZero (_ : Cfg) (b : Word) : Bool := decide (b.toNat = 0)

/-- `b ≠ 0` (R250). -/
def condNonzero (_ : Cfg) (b : Word) : Bool := decide (b.toNat ≠ 0)

/-- `b >= SIGN`: the sign bit is set (R251). -/
def condNegative (cfg : Cfg) (b : Word) : Bool := decide (b.toNat ≥ cfg.sign.toNat)

/-- `b < SIGN`: the sign bit is clear (R252). -/
def condPositive (cfg : Cfg) (b : Word) : Bool := decide (b.toNat < cfg.sign.toNat)

/-- `b mod 2 = 1` (R253). -/
def condOdd (_ : Cfg) (b : Word) : Bool := decide (b.toNat % 2 = 1)

/-- `b mod 2 = 0` (R254). -/
def condEven (_ : Cfg) (b : Word) : Bool := decide (b.toNat % 2 = 0)

end Sys2Proof.Machine
end

