-- ==== Sys2Proof/Machine/Control.lean ====
section
/-! DEFINITION. The control transfer instructions (43_control_transfer.md). A branch writes the PC from inside its
execution function (R240); one not taken leaves it at cur + 1. -/

namespace Sys2Proof.Machine

/-- The execution function of JMP: `x[0] <- a` (R242). -/
def fnJump : Fn := fun o s => jumpTo o.a o s

/-- The execution function of CAL: push the return address x[0], then `x[0] <- a` (R261). -/
def fnCall : Fn := fun o s =>
  (readReg pcIndex s).bind fun ret => (push ret s).bind fun s1 => jumpTo o.a o s1

/-- The execution function of RET: `x[0] <- Pop()` (R262). -/
def fnReturn : Fn := fun o s => (pop s).bind fun r => jumpTo r.1 o r.2

/-- HLT (R241): the step itself halts (R123). -/
def execHlt (s : State) : Outcome := haltStep s

/-- JMP (R242): an unconditional jump. -/
def execJmp (a : Operand) (s : State) : Outcome :=
  runInstr [(.get, a)] fnJump s

/-- BGE (R243): branch if b >= c, unsigned. -/
def execBge (a b c : Operand) (s : State) : Outcome :=
  runInstr [(.get, a), (.get, b), (.get, c)] (fnBranchBinary condGe) s

/-- BRL (R244): branch if b < c, unsigned. -/
def execBrl (a b c : Operand) (s : State) : Outcome :=
  runInstr [(.get, a), (.get, b), (.get, c)] (fnBranchBinary condLt) s

/-- BRG (R245): branch if b > c, unsigned. -/
def execBrg (a b c : Operand) (s : State) : Outcome :=
  runInstr [(.get, a), (.get, b), (.get, c)] (fnBranchBinary condGt) s

/-- BLE (R246): branch if b <= c, unsigned. -/
def execBle (a b c : Operand) (s : State) : Outcome :=
  runInstr [(.get, a), (.get, b), (.get, c)] (fnBranchBinary condLe) s

/-- BRE (R247): branch if b = c. -/
def execBre (a b c : Operand) (s : State) : Outcome :=
  runInstr [(.get, a), (.get, b), (.get, c)] (fnBranchBinary condEq) s

/-- BNE (R248): branch if b ≠ c. -/
def execBne (a b c : Operand) (s : State) : Outcome :=
  runInstr [(.get, a), (.get, b), (.get, c)] (fnBranchBinary condNe) s

/-- BRZ (R249): branch if b = 0. -/
def execBrz (a b : Operand) (s : State) : Outcome :=
  runInstr [(.get, a), (.get, b)] (fnBranchUnary condZero) s

/-- BNZ (R250): branch if b ≠ 0. -/
def execBnz (a b : Operand) (s : State) : Outcome :=
  runInstr [(.get, a), (.get, b)] (fnBranchUnary condNonzero) s

/-- BRN (R251): branch if b >= SIGN. -/
def execBrn (a b : Operand) (s : State) : Outcome :=
  runInstr [(.get, a), (.get, b)] (fnBranchUnary condNegative) s

/-- BRP (R252): branch if b < SIGN. -/
def execBrp (a b : Operand) (s : State) : Outcome :=
  runInstr [(.get, a), (.get, b)] (fnBranchUnary condPositive) s

/-- BOD (R253): branch if b is odd. -/
def execBod (a b : Operand) (s : State) : Outcome :=
  runInstr [(.get, a), (.get, b)] (fnBranchUnary condOdd) s

/-- BEV (R254): branch if b is even. -/
def execBev (a b : Operand) (s : State) : Outcome :=
  runInstr [(.get, a), (.get, b)] (fnBranchUnary condEven) s

/-- BRC (R255): branch if b + c carries. -/
def execBrc (a b c : Operand) (s : State) : Outcome :=
  runInstr [(.get, a), (.get, b), (.get, c)] (fnBranchBinary carry) s

/-- BNC (R256): branch if b + c does not carry. -/
def execBnc (a b c : Operand) (s : State) : Outcome :=
  runInstr [(.get, a), (.get, b), (.get, c)] (fnBranchBinary noCarry) s

/-- SBRL (R257): branch if b < c, signed. -/
def execSbrl (a b c : Operand) (s : State) : Outcome :=
  runInstr [(.get, a), (.get, b), (.get, c)] (fnBranchBinary condSignedLt) s

/-- SBRG (R258): branch if b > c, signed. -/
def execSbrg (a b c : Operand) (s : State) : Outcome :=
  runInstr [(.get, a), (.get, b), (.get, c)] (fnBranchBinary condSignedGt) s

/-- SBLE (R259): branch if b <= c, signed. -/
def execSble (a b c : Operand) (s : State) : Outcome :=
  runInstr [(.get, a), (.get, b), (.get, c)] (fnBranchBinary condSignedLe) s

/-- SBGE (R260): branch if b >= c, signed. -/
def execSbge (a b c : Operand) (s : State) : Outcome :=
  runInstr [(.get, a), (.get, b), (.get, c)] (fnBranchBinary condSignedGe) s

/-- CAL (R261): call. -/
def execCal (a : Operand) (s : State) : Outcome :=
  runInstr [(.get, a)] fnCall s

/-- RET (R262): return. -/
def execRet (s : State) : Outcome :=
  runInstr [] fnReturn s

end Sys2Proof.Machine
end

