-- ==== Sys2Proof/Machine/DataMovement.lean ====
section
/-! DEFINITION. The data movement and memory instructions IMM, MOV, NOP, LOD, STR, CPY, LLOD, LSTR
(41_data_movement.md). Each is the dispatcher over its role list and its execution function. -/

namespace Sys2Proof.Machine

/-- IMM (R160): `a <- b`; a Reg source copies that register. -/
def execImm (a b : Operand) (s : State) : Outcome :=
  runInstr [(.set, a), (.get, b)] fnCopyB s

/-- MOV (R161): `a <- b`. -/
def execMov (a b : Operand) (s : State) : Outcome :=
  runInstr [(.set, a), (.get, b)] fnCopyB s

/-- NOP (R162): only the PC advance. -/
def execNop (s : State) : Outcome :=
  runInstr [] fnNothing s

/-- LOD (R163): `a <- b`, b read from memory in pass 1. -/
def execLod (a b : Operand) (s : State) : Outcome :=
  runInstr [(.set, a), (.getRam, b)] fnCopyB s

/-- STR (R164): `a <- b`, a stored to memory in pass 2. -/
def execStr (a b : Operand) (s : State) : Outcome :=
  runInstr [(.setRam, a), (.get, b)] fnCopyB s

/-- CPY (R165): `a <- b`, memory to memory; the source address is checked first. -/
def execCpy (a b : Operand) (s : State) : Outcome :=
  runInstr [(.setRam, a), (.getRam, b)] fnCopyB s

/-- LLOD (R166): `a <- c`, c read at base + offset, the sum not wrapped (R67). -/
def execLlod (a b c : Operand) (s : State) : Outcome :=
  runInstr [(.set, a), (.ramOffset, b), (.getRam, c)] fnCopyC s

/-- LSTR (R167): `a <- c`, stored at base + the final offset (R128). -/
def execLstr (a b c : Operand) (s : State) : Outcome :=
  runInstr [(.setRam, a), (.ramOffset, b), (.get, c)] fnCopyC s

end Sys2Proof.Machine
end

