-- ==== Sys2Proof/Machine/InputOutput.lean ====
section
/-! DEFINITION. The instructions IN and OUT (45_io.md section 2). -/

namespace Sys2Proof.Machine

/-- The execution function of IN (R294): a value completes with the slot a truncated to W bits; an
unbound port leaves a at its initial 0 (D9, D10); a pending device leaves the instruction incomplete. -/
def fnIn : Fn := fun o s =>
  match portIn o.b s with
  | (.value v, s1) => .ok (.complete { o with a := trunc s1.cfg.w v } s1)
  | (.unbound, s1) => .ok (.complete o s1)
  | (.pending, s1) => .ok (.incomplete s1)

/-- The execution function of OUT: `out(a, b)` (R295). -/
def fnOut : Fn := fun o s => .ok (.complete o (portOut o.a o.b s))

/-- IN (R294): read a word from a port. -/
def execInPort (a b : Operand) (s : State) : Outcome :=
  runInstr [(.set, a), (.get, b)] fnIn s

/-- OUT (R295): write a word to a port. -/
def execOutPort (a b : Operand) (s : State) : Outcome :=
  runInstr [(.get, a), (.get, b)] fnOut s

end Sys2Proof.Machine
end

