-- ==== Sys2Proof/Machine/SetOnCondition.lean ====
section
/-! DEFINITION. The set instructions SETE to SSETGE (42_alu.md section 5): a true condition writes T = M, a
false one 0 (R181). -/

namespace Sys2Proof.Machine

/-- SETE (R205): set if b = c. -/
def execSete (a b c : Operand) (s : State) : Outcome :=
  runInstr [(.set, a), (.get, b), (.get, c)] (fnSetIf condEq) s

/-- SETNE (R206): set if b ≠ c. -/
def execSetne (a b c : Operand) (s : State) : Outcome :=
  runInstr [(.set, a), (.get, b), (.get, c)] (fnSetIf condNe) s

/-- SETG (R207): set if b > c, unsigned. -/
def execSetg (a b c : Operand) (s : State) : Outcome :=
  runInstr [(.set, a), (.get, b), (.get, c)] (fnSetIf condGt) s

/-- SETL (R208): set if b < c, unsigned. -/
def execSetl (a b c : Operand) (s : State) : Outcome :=
  runInstr [(.set, a), (.get, b), (.get, c)] (fnSetIf condLt) s

/-- SETGE (R209): set if b >= c, unsigned. -/
def execSetge (a b c : Operand) (s : State) : Outcome :=
  runInstr [(.set, a), (.get, b), (.get, c)] (fnSetIf condGe) s

/-- SETLE (R210): set if b <= c, unsigned. -/
def execSetle (a b c : Operand) (s : State) : Outcome :=
  runInstr [(.set, a), (.get, b), (.get, c)] (fnSetIf condLe) s

/-- SETC (R211): set if b + c carries. -/
def execSetc (a b c : Operand) (s : State) : Outcome :=
  runInstr [(.set, a), (.get, b), (.get, c)] (fnSetIf carry) s

/-- SETNC (R212): set if b + c does not carry. -/
def execSetnc (a b c : Operand) (s : State) : Outcome :=
  runInstr [(.set, a), (.get, b), (.get, c)] (fnSetIf noCarry) s

/-- SSETL (R213): set if b < c, signed. -/
def execSsetl (a b c : Operand) (s : State) : Outcome :=
  runInstr [(.set, a), (.get, b), (.get, c)] (fnSetIf condSignedLt) s

/-- SSETG (R214): set if b > c, signed. -/
def execSsetg (a b c : Operand) (s : State) : Outcome :=
  runInstr [(.set, a), (.get, b), (.get, c)] (fnSetIf condSignedGt) s

/-- SSETLE (R215): set if b <= c, signed. -/
def execSsetle (a b c : Operand) (s : State) : Outcome :=
  runInstr [(.set, a), (.get, b), (.get, c)] (fnSetIf condSignedLe) s

/-- SSETGE (R216): set if b >= c, signed. -/
def execSsetge (a b c : Operand) (s : State) : Outcome :=
  runInstr [(.set, a), (.get, b), (.get, c)] (fnSetIf condSignedGe) s

end Sys2Proof.Machine
end

