-- ==== Sys2Proof/Machine/Shift.lean ====
section
/-! DEFINITION. The shift instructions LSH, RSH, BSL, BSR, SRS, BSS (42_alu.md section 4). -/

namespace Sys2Proof.Machine

/-- b · 2 (R199). -/
def aluLsh (_ : Cfg) (b : Word) : Int :=
  (b.toNat : Int) * 2

/-- LSH (R199): `a <- trunc_W(b · 2)`. -/
def execLsh (a b : Operand) (s : State) : Outcome :=
  runInstr [(.set, a), (.get, b)] (fnUnary aluLsh) s

/-- floor(b / 2) (R200). -/
def aluRsh (_ : Cfg) (b : Word) : Int :=
  ((b.toNat / 2 : Nat) : Int)

/-- RSH (R200): `a <- trunc_W(floor(b / 2))`. -/
def execRsh (a b : Operand) (s : State) : Outcome :=
  runInstr [(.set, a), (.get, b)] (fnUnary aluRsh) s

/-- b · 2^c; a count of W or more gives 0 (D23), so that the power is never formed (R201). -/
def aluBsl (cfg : Cfg) (b c : Word) : Int :=
  if c.toNat ≥ cfg.w.bits then 0 else (b.toNat : Int) * 2 ^ c.toNat

/-- BSL (R201): `a <- trunc_W(b · 2^c)`. -/
def execBsl (a b c : Operand) (s : State) : Outcome :=
  runInstr [(.set, a), (.get, b), (.get, c)] (fnBinary aluBsl) s

/-- floor(b / 2^c); a count of W or more gives 0 (D23) (R202). -/
def aluBsr (cfg : Cfg) (b c : Word) : Int :=
  if c.toNat ≥ cfg.w.bits then 0 else ((b.toNat / 2 ^ c.toNat : Nat) : Int)

/-- BSR (R202): `a <- trunc_W(floor(b / 2^c))`. -/
def execBsr (a b c : Operand) (s : State) : Outcome :=
  runInstr [(.set, a), (.get, b), (.get, c)] (fnBinary aluBsr) s

/-- floor(signed_W(b) / 2) (R203). -/
def aluSrs (cfg : Cfg) (b : Word) : Int :=
  signed cfg b / 2

/-- SRS (R203): `a <- trunc_W(floor(signed_W(b) / 2))`. -/
def execSrs (a b : Operand) (s : State) : Outcome :=
  runInstr [(.set, a), (.get, b)] (fnUnary aluSrs) s

/-- floor(signed_W(b) / 2^c); a count of W or more gives the sign fill (D23) (R204). -/
def aluBss (cfg : Cfg) (b c : Word) : Int :=
  if c.toNat ≥ cfg.w.bits then (if b.toNat ≥ cfg.sign.toNat then -1 else 0)
  else signed cfg b / 2 ^ c.toNat

/-- BSS (R204): `a <- trunc_W(floor(signed_W(b) / 2^c))`. -/
def execBss (a b c : Operand) (s : State) : Outcome :=
  runInstr [(.set, a), (.get, b), (.get, c)] (fnBinary aluBss) s

end Sys2Proof.Machine
end

