-- ==== Sys2Proof/Machine/Stack.lean ====
section
/-! DEFINITION. The stack instructions PSH and POP (44_stack.md). -/

namespace Sys2Proof.Machine

/-- The execution function of PSH: `Push(a)` (R280). -/
def fnPush : Fn := fun o s => (push o.a s).bind fun s1 => .ok (.complete o s1)

/-- The execution function of POP: `a <- Pop()` (R281). -/
def fnPop : Fn := fun o s => (pop s).bind fun r => .ok (.complete { o with a := r.1 } r.2)

/-- PSH (R280): push a word. -/
def execPsh (a : Operand) (s : State) : Outcome :=
  runInstr [(.get, a)] fnPush s

/-- POP (R281): pop a word; pass 2 then writes the destination. -/
def execPop (a : Operand) (s : State) : Outcome :=
  runInstr [(.set, a)] fnPop s

end Sys2Proof.Machine
end

