-- ==== Sys2Proof/Machine/Dispatch.lean ====
section
/-! DEFINITION. The dispatch: each instruction's meaning, one arm per constructor (R100). `exec i s` is the
whole step over the instruction `i` fetched at the PC of `s` (R131). -/

namespace Sys2Proof.Machine

def exec (i : Instr) (s : State) : Host.Outcome State Fault Refusal :=
  match i with
  | .add a b c => Sys2Proof.Machine.execAdd a b c s
  | .rsh a b => Sys2Proof.Machine.execRsh a b s
  | .lod a b => Sys2Proof.Machine.execLod a b s
  | .str a b => Sys2Proof.Machine.execStr a b s
  | .bge a b c => Sys2Proof.Machine.execBge a b c s
  | .nor a b c => Sys2Proof.Machine.execNor a b c s
  | .imm a b => Sys2Proof.Machine.execImm a b s
  | .sub a b c => Sys2Proof.Machine.execSub a b c s
  | .jmp a => Sys2Proof.Machine.execJmp a s
  | .mov a b => Sys2Proof.Machine.execMov a b s
  | .nop => Sys2Proof.Machine.execNop s
  | .lsh a b => Sys2Proof.Machine.execLsh a b s
  | .inc a b => Sys2Proof.Machine.execInc a b s
  | .dec a b => Sys2Proof.Machine.execDec a b s
  | .neg a b => Sys2Proof.Machine.execNeg a b s
  | .and a b c => Sys2Proof.Machine.execAnd a b c s
  | .or a b c => Sys2Proof.Machine.execOr a b c s
  | .not a b => Sys2Proof.Machine.execNot a b s
  | .xnor a b c => Sys2Proof.Machine.execXnor a b c s
  | .xor a b c => Sys2Proof.Machine.execXor a b c s
  | .nand a b c => Sys2Proof.Machine.execNand a b c s
  | .brl a b c => Sys2Proof.Machine.execBrl a b c s
  | .brg a b c => Sys2Proof.Machine.execBrg a b c s
  | .bre a b c => Sys2Proof.Machine.execBre a b c s
  | .bne a b c => Sys2Proof.Machine.execBne a b c s
  | .bod a b => Sys2Proof.Machine.execBod a b s
  | .bev a b => Sys2Proof.Machine.execBev a b s
  | .ble a b c => Sys2Proof.Machine.execBle a b c s
  | .brz a b => Sys2Proof.Machine.execBrz a b s
  | .bnz a b => Sys2Proof.Machine.execBnz a b s
  | .brn a b => Sys2Proof.Machine.execBrn a b s
  | .brp a b => Sys2Proof.Machine.execBrp a b s
  | .psh a => Sys2Proof.Machine.execPsh a s
  | .pop a => Sys2Proof.Machine.execPop a s
  | .cal a => Sys2Proof.Machine.execCal a s
  | .ret => Sys2Proof.Machine.execRet s
  | .hlt => Sys2Proof.Machine.execHlt s
  | .cpy a b => Sys2Proof.Machine.execCpy a b s
  | .brc a b c => Sys2Proof.Machine.execBrc a b c s
  | .bnc a b c => Sys2Proof.Machine.execBnc a b c s
  | .mlt a b c => Sys2Proof.Machine.execMlt a b c s
  | .div a b c => Sys2Proof.Machine.execDiv a b c s
  | .mod a b c => Sys2Proof.Machine.execMod a b c s
  | .bsr a b c => Sys2Proof.Machine.execBsr a b c s
  | .bsl a b c => Sys2Proof.Machine.execBsl a b c s
  | .srs a b => Sys2Proof.Machine.execSrs a b s
  | .bss a b c => Sys2Proof.Machine.execBss a b c s
  | .sete a b c => Sys2Proof.Machine.execSete a b c s
  | .setne a b c => Sys2Proof.Machine.execSetne a b c s
  | .setg a b c => Sys2Proof.Machine.execSetg a b c s
  | .setl a b c => Sys2Proof.Machine.execSetl a b c s
  | .setge a b c => Sys2Proof.Machine.execSetge a b c s
  | .setle a b c => Sys2Proof.Machine.execSetle a b c s
  | .setc a b c => Sys2Proof.Machine.execSetc a b c s
  | .setnc a b c => Sys2Proof.Machine.execSetnc a b c s
  | .llod a b c => Sys2Proof.Machine.execLlod a b c s
  | .lstr a b c => Sys2Proof.Machine.execLstr a b c s
  | .sdiv a b c => Sys2Proof.Machine.execSdiv a b c s
  | .sbrl a b c => Sys2Proof.Machine.execSbrl a b c s
  | .sbrg a b c => Sys2Proof.Machine.execSbrg a b c s
  | .sble a b c => Sys2Proof.Machine.execSble a b c s
  | .sbge a b c => Sys2Proof.Machine.execSbge a b c s
  | .ssetl a b c => Sys2Proof.Machine.execSsetl a b c s
  | .ssetg a b c => Sys2Proof.Machine.execSsetg a b c s
  | .ssetle a b c => Sys2Proof.Machine.execSsetle a b c s
  | .ssetge a b c => Sys2Proof.Machine.execSsetge a b c s
  | .abs a b => Sys2Proof.Machine.execAbs a b s
  | .inPort a b => Sys2Proof.Machine.execInPort a b s
  | .outPort a b => Sys2Proof.Machine.execOutPort a b s

end Sys2Proof.Machine
end

