-- ==== Sys2Proof/Machine/HostCalls.lean ====
section
/-! DEFINITION. The host calls other than `step` and `run`: `load` with its checks, `reset()`,
`register_device` and `finish_pending_input` (70_reset_and_hazards.md, 45_io.md). -/

namespace Sys2Proof.Machine

/-! The load checks (R351 to R354). -/

/-- The declared values of the four numeric headers (R351). -/
structure Declared where
  bits : Nat
  heap : Nat
  stack : Nat
  minreg : Nat
  deriving DecidableEq, Repr

/-- Header presence (R351), then the RUN mode (R352). -/
def checkHeaders (h : Headers) : Except LoadErr Declared :=
  match h.bits, h.minheap, h.minstack, h.minreg, h.run with
  | some bits, some heap, some stack, some minreg, some mode =>
    if mode = .rom then .ok { bits := bits, heap := heap, stack := stack, minreg := minreg }
    else .error .unsupportedRunMode
  | _, _, _, _, _ => .error .missingHeader

/-- The width and size checks (R353), giving the configuration registers (R40). -/
def checkSizes (d : Declared) (slen plen : Nat) : Except LoadErr Cfg :=
  let w := widthFor d.bits
  let nreg := d.minreg + 2
  let msize := slen + d.heap + d.stack
  if d.bits < 1 ∨ d.bits > 32 then .error .bitsOutOfRange
  else if nreg > w.maxValue then .error .registerCountTooLarge
  else if msize > w.maxValue then .error .memorySizeTooLarge
  else .ok
    { w := w
      m := BitVec.ofNat 32 w.maxValue
      sign := BitVec.ofNat 32 w.signBit
      smax := BitVec.ofNat 32 w.maxSigned
      nreg := BitVec.ofNat 32 nreg
      slen := BitVec.ofNat 32 slen
      heap := BitVec.ofNat 32 d.heap
      stack := BitVec.ofNat 32 d.stack
      msize := BitVec.ofNat 32 msize
      hsb := BitVec.ofNat 32 (slen + d.heap)
      plen := plen }

/-- The load check of an operand given as a kind code and a value of any size (R97, R98, R354). -/
def rawOperandOk (m nreg : Nat) (kind : BitVec 2) (value : Nat) : Bool :=
  match Kind.ofCode kind with
  | .imm => decide (value ≤ m)
  | .reg => decide (value < nreg)
  | .unknown2 => true
  | .unknown3 => true

/-- The load check of one packed record (R102, R354). An unknown opcode is accepted with any operands. -/
def packedOk (m nreg : Nat) (w : PackedWord) : Bool :=
  match decode w with
  | .ok i => i.wellFormed m nreg
  | .error .unknownOpcode => true
  | .error .reservedBits => false
  | .error .unusedSlot => false

/-- The load check of one instruction (R94, R354). -/
def codeItemOk (m nreg : Nat) : CodeItem → Bool
  | .packed w => packedOk m nreg w
  | .fields opc kinds values =>
    match operandCount opc.toNat with
    | none => true
    | some n =>
      decide (kinds.length = n) && decide (values.length = n) &&
        (kinds.zip values).all fun kv => rawOperandOk m nreg kv.1 kv.2

/-- The packed record of an instruction (R95). -/
def CodeItem.pack : CodeItem → PackedWord
  | .packed w => w
  | .fields opc kinds values =>
    packRecord opc ((kinds.zip values).map fun kv => ⟨Kind.ofCode kv.1, BitVec.ofNat 32 kv.2⟩)

/-- All the checks of a load, in the spec's order (R350 to R354). -/
def checkProgram (p : Program) : Except LoadErr Cfg :=
  match checkHeaders p.headers with
  | .error e => .error e
  | .ok d =>
    match checkSizes d p.static.length p.code.length with
    | .error e => .error e
    | .ok cfg =>
      if p.code.all (codeItemOk cfg.m.toNat cfg.nreg.toNat) then .ok cfg
      else .error .malformedInstruction

/-- `fail(e)` (R356): the previous machine is discarded; the registry and the environment's histories
stay. -/
def failLoad (e : LoadErr) (s : State) : State :=
  { s with
    cfg := Cfg.none
    status := .unloaded
    regs := []
    mem := []
    pending := Pending.none
    fault := FaultRecord.none
    loadErr := e
    prog := ProgramStore.empty }

/-- `initialise(program)` (R355). -/
def initialise (cfg : Cfg) (p : Program) (s : State) : State :=
  reinitialise
    { s with
      cfg := cfg
      prog := { code := p.code.map CodeItem.pack, headers := p.headers, static := p.static }
      loadErr := .none }

/-- `load(program, debug_info)`, defined in every status (R350). -/
def hostLoad (p : Program) (s : State) : State :=
  match checkProgram p with
  | .error e => failLoad e s
  | .ok cfg => initialise cfg p s

/-- `reset()` (R357): re-initialise a loaded machine, then one reset event per hook of RESET_LIST, in
order (R299). -/
def hostReset (s : State) : State :=
  let s1 := if s.status = .unloaded then s else reinitialise s
  { s1 with
    output := s1.output ++ (List.range s1.registry.resetList.length).map OutputEvent.reset }

/-- What a device declares when it registers (R291): its number, the ports of its input map and of its
output map, and whether it has a reset function. -/
structure Device where
  id : Nat
  inputs : List Word
  outputs : List Word
  resetHook : Bool
  deriving DecidableEq, Repr

/-- `register_device(device)` (R291), defined in every status. -/
def registerDevice (d : Device) (s : State) : State :=
  { s with
    registry :=
      { inMap := d.inputs.foldl (fun m p => bindPort d.id p m) s.registry.inMap
        outMap := d.outputs.foldl (fun m p => bindPort d.id p m) s.registry.outMap
        resetList := if d.resetHook then s.registry.resetList ++ [d.id] else s.registry.resetList } }

/-- `finish_pending_input(v)` (R297): ignored with nothing pending; else write the recorded destination,
clear PENDING and return to READY. A destination of kind 2 or 3 faults with FAULT_PC = PENDING.index. -/
def finishPendingInput (v : Nat) (s : State) : Outcome :=
  if s.pending.valid = false then .next s
  else finish s.pending.index
    ((writeTarget ⟨s.pending.kind, s.pending.value⟩ v s).bind fun s1 =>
      .ok ((s1.withPending { s1.pending with valid := false }).withStatus .ready))

end Sys2Proof.Machine
end

