-- ==== Sys2Proof/Machine/Step.lean ====
section
/-! DEFINITION. The step (R131), and the placing of an instruction where the step fetches next. -/

namespace Sys2Proof.Machine

/-- `step()` (R121 to R131). In READY and HALTED it fetches at the PC: past the end it halts (R123), an
unknown opcode faults (R124), and an instruction is executed whole by `exec`, which advances the PC. In
every other status it is refused (R121). -/
def step (s : State) : Host.Outcome State Fault Refusal :=
  if s.steppable then
    match fetch s with
    | .pastEnd => haltStep s
    | .instr i => exec i s
    | .unknown => unknownOpcodeStep s
    | .malformed => .refused .malformedRecord
    | .stuck f => .fault f
  else .refused (.callRefused s.status)

/-- The program that `withFetchWord` loads on a machine without one: the single record `w`, at W = 32, with
32 registers, 32 heap words and 32 stack words. -/
def oneRecordProgram (w : PackedWord) : Program :=
  { code := [.packed w]
    headers :=
      { bits := some 32, minheap := some 32, minstack := some 32, minreg := some 30, run := some .rom
        others := [] }
    static := [] }

/-- `s` with the instruction whose bits are `w` where the next step fetches: that record at the PC, on an
UNLOADED machine after the load of a one-record program. -/
def State.withFetchWord (s : State) (nbits w : Nat) : State :=
  placeAtPc (BitVec.ofNat 112 (w % 2 ^ nbits))
    (if s.status = .unloaded then hostLoad (oneRecordProgram (encode .hlt)) s else s)

end Sys2Proof.Machine
end

