-- ==== Sys2Proof/Machine/HostView.lean ====
section
/-! DEFINITION. What the host sees of the state: the numeric codes of the status, fault, access, load-error
and width registers (R40, R41, R44, R320, R330), the result of a step (R120), the fault report (R322) and
the read accessors (R49, R139). -/

namespace Sys2Proof.Machine

/-- CFG_W as its 6-bit register content (R40). -/
def Width.code (w : Width) : BitVec 6 := BitVec.ofNat 6 w.bits

/-- STATUS as its 3-bit code (R41). -/
def Status.code : Status → BitVec 3
  | .unloaded => 0
  | .ready => 1
  | .halted => 2
  | .awaitingInput => 3
  | .faulted => 4

/-- FAULT_CODE as its 4-bit code (R320). -/
def FaultCode.code : FaultCode → BitVec 4
  | .none => 0
  | .stackOverflow => 1
  | .stackUnderflow => 2
  | .loadOutOfBounds => 3
  | .storeOutOfBounds => 4
  | .unknownOpcode => 5
  | .badOperandKind => 6
  | .divByZero => 7

/-- FAULT_ACCESS as its code 0, 1 or 2 (R44). DESIGN CHOICE (log entry 21): the spec gives the codes and no
width, and the model takes 2 bits. -/
def FaultAccess.code : FaultAccess → BitVec 2
  | .none => 0
  | .load => 1
  | .store => 2

/-- LOAD_ERR as its 4-bit code (R330). -/
def LoadErr.code : LoadErr → BitVec 4
  | .none => 0
  | .unsupportedRunMode => 1
  | .bitsOutOfRange => 2
  | .registerCountTooLarge => 3
  | .memorySizeTooLarge => 4
  | .missingHeader => 5
  | .malformedInstruction => 6

/-- The outcome of a step or run as the host reads it from the state it leaves (R120, R321): the three
results, or the fault. `none` while no program is loaded. -/
inductive StepResult where
  | continue
  | halted
  | awaitingInput
  | fault (code : FaultCode)
  deriving DecidableEq, Repr

/-- The result a state stands for (R41, R120). -/
def State.result (s : State) : Option StepResult :=
  match s.status with
  | .unloaded => none
  | .ready => some .continue
  | .halted => some .halted
  | .awaitingInput => some .awaitingInput
  | .faulted => some (.fault s.fault.code)

/-- The register-file read accessor: x[0..NREG−1], empty when UNLOADED (R49, R356). -/
def State.readRegisters (s : State) : List Word := s.regs

/-- The data-memory read accessor: mem[0..MSIZE−1], empty when UNLOADED (R49, R356). -/
def State.readMemory (s : State) : List Word := (List.range s.msize).map s.mem.read

end Sys2Proof.Machine
end

