-- ==== Sys2Proof/Machine/Run.lean ====
section
/-! DEFINITION. The host call `run` (R134, R135): bursts of steps, the deadline tested between bursts; and the
end of a run of a loaded program (R138). -/

namespace Sys2Proof.Machine

/-- One burst: `n` steps, stopping at the first that does not return Continue. -/
def runBurst : Nat → State → Outcome
  | 0, s => .next s
  | n + 1, s =>
    match step s with
    | .next t => if t.status = .ready then runBurst n t else .next t
    | .fault f => .fault f
    | .refused r => .refused r

/-- `k` bursts of `burst` steps, stopping at the first result other than Continue. -/
def runBursts (burst : Nat) : Nat → State → Outcome
  | 0, s => .next s
  | k + 1, s =>
    match runBurst burst s with
    | .next t => if t.status = .ready then runBursts burst k t else .next t
    | .fault f => .fault f
    | .refused r => .refused r

/-- `run(max_duration_ms)` with a burst size (R134). The wall-clock deadline is a draw at each burst
boundary that is eventually true (R135): `k` is the number of complete bursts after which it first is, at
least 1 and otherwise free. -/
def hostRun (burst k : Nat) (s : State) : Outcome :=
  if s.steppable then runBursts burst k s else .refused (.callRefused s.status)

/-! The end of a run (R138). -/

/-- What a run of a program leaves: the register file, the data memory and the output history at its end
(R138). -/
structure FinalState where
  regs : List Word
  mem : Memory
  output : List OutputEvent
  deriving DecidableEq, Repr

/-- The register file, data memory and output history of a state. -/
def State.finalState (s : State) : FinalState := { regs := s.regs, mem := s.mem, output := s.output }

/-- A host call made in the course of a run: `step`, `run` with its number of bursts (at least 1),
`finish_pending_input` or `register_device`. A load or a reset() starts another run. -/
inductive HostCall where
  | step
  | run (bursts : Nat)
  | resume (v : Nat)
  | register (d : Device)
  deriving DecidableEq, Repr

/-- Make a host call. -/
def HostCall.make (burst : Nat) (c : HostCall) (s : State) : Outcome :=
  match c with
  | .step => Machine.step s
  | .run k => hostRun burst k s
  | .resume v => finishPendingInput v s
  | .register d => .next (registerDevice d s)

/-- The call is one that returns a step's result: `step` or `run` (R120, R134). -/
def HostCall.executes : HostCall → Bool
  | .step => true
  | .run _ => true
  | .resume _ => false
  | .register _ => false

/-- The end of a run driven by a sequence of host calls (R138): the final state at the first `step` or `run`
that returns Halted. While none has, the run is not over: after a Continue, while an input is awaited, and
for ever after a fatal fault. A refused call changes nothing (R362). -/
def endOfRun (burst : Nat) : List HostCall → State → Option FinalState
  | [], _ => none
  | c :: rest, s =>
    match c.make burst s with
    | .next t =>
      if c.executes && decide (t.status = .halted) then some t.finalState else endOfRun burst rest t
    | .refused _ => endOfRun burst rest s
    | .fault _ => none

end Sys2Proof.Machine
end

