-- ==== Sys2Proof/Safety.lean ====
section
/-! DEFINITION. The words the statements use: what an operand reads and where it writes, the states a step
ends in, and the invariant of the machine (10_state.md, 70_reset_and_hazards.md R353 to R356). -/

namespace Sys2Proof.Machine

/-! Widths. -/

/-- The largest word of the width that a declared bit count b in 1..32 selects (R6, R7). -/
def largestWord (b : Nat) : Nat := if b ≤ 8 then 255 else if b ≤ 16 then 65535 else 4294967295

/-! Registers. -/

/-- Register `i`, read as 0 past the end of the file. -/
def State.regAt (s : State) (i : Nat) : Word := s.regs[i]?.getD 0

/-- The PC, x[0] (R32). -/
def State.pc (s : State) : Word := s.regAt 0

/-- The SP, x[1] (R33). -/
def State.sp (s : State) : Word := s.regAt 1

/-- The register file holds the two reserved registers (R31). -/
abbrev State.hasReserved (s : State) : Prop := 2 ≤ s.regs.length

/-- `x[i] <- v`, the register storing trunc_W(v) (R30). -/
def State.setReg (s : State) (i : Nat) (v : Int) : State := s.withRegs (s.regs.set i (trunc s.cfg.w v))

/-- The state in which an instruction executes: the PC is cur + 1 (R36, R122). -/
def State.advanced (s : State) : State := s.setReg 0 ((s.pc.toNat : Int) + 1)

/-! Operands. -/

/-- The operand is a literal, or names a register of the file (R98): it can be read and written. -/
abbrev State.canUse (s : State) (o : Operand) : Prop :=
  o.kind = .imm ∨ (o.kind = .reg ∧ o.value.toNat < s.regs.length)

/-- What a usable operand reads in a state (R125). -/
def State.value (s : State) (o : Operand) : Word :=
  match o.kind with
  | .reg => s.regAt o.value.toNat
  | _ => o.value

/-- The state after a usable target is written (R126): an Imm target discards the value. -/
def State.assigned (s : State) (o : Operand) (v : Int) : State :=
  match o.kind with
  | .reg => s.setReg o.value.toNat v
  | _ => s

/-! Memory. -/

/-- The word at a data address. -/
def State.wordAt (s : State) (a : Nat) : Word := s.mem.read a

/-- `mem[a] <- trunc_W(v)` (R66). -/
def State.stored (s : State) (a : Nat) (v : Word) : State :=
  s.withMem (s.mem.write a (trunc s.cfg.w v.toNat))

/-! How a step ends. -/

/-- The state a completed instruction returns Continue in (R130). -/
def State.completed (s : State) : State := s.withStatus .ready

/-- The state after an instruction at the PC of `s` raised a fault in the state `t` (R321). -/
def State.faultedAs (s : State) (code : FaultCode) (info : Nat) (t : State) : State :=
  raiseFault code s.pc info t

/-! The invariant. -/

/-- The configuration registers hold what a load writes (R7, R31, R40, R61, R63, R353). -/
structure Cfg.Coherent (c : Cfg) : Prop where
  width : c.w ≠ .unset
  maxValue : c.m.toNat = 2 ^ c.w.bits - 1
  signBit : c.sign.toNat = 2 ^ (c.w.bits - 1)
  maxSigned : c.smax.toNat = 2 ^ (c.w.bits - 1) - 1
  reserved : 2 ≤ c.nreg.toNat
  registers : c.nreg.toNat ≤ c.m.toNat
  memory : c.msize.toNat = c.slen.toNat + c.heap.toNat + c.stack.toNat
  addresses : c.msize.toNat ≤ c.m.toNat
  boundary : c.hsb.toNat = c.slen.toNat + c.heap.toNat

/-- The machine's invariant. -/
structure State.Inv (s : State) : Prop where
  /-- A machine that is not UNLOADED has a coherent configuration, whose PLEN and SLEN are the lengths of
  the program store's code and static data (R40, R355). -/
  configured : s.status ≠ .unloaded →
    s.cfg.Coherent ∧ s.cfg.plen = s.prog.code.length ∧ s.cfg.slen.toNat = s.prog.static.length
  /-- An UNLOADED machine keeps no configuration and no program (R356). -/
  discarded : s.status = .unloaded → s.cfg = Cfg.none ∧ s.prog = ProgramStore.empty
  /-- The register file has NREG slots (R30). -/
  fileLength : s.regs.length = s.cfg.nreg.toNat
  /-- Every register holds a W-bit word (R30). -/
  regWords : ∀ v ∈ s.regs, v.toNat < 2 ^ s.cfg.w.bits
  /-- The memory is in canonical form. -/
  memCanonical : s.mem.wf
  /-- The memory holds W-bit words at addresses below MSIZE only (R60, R66). -/
  memWords : ∀ c ∈ s.mem, c.1 < s.msize ∧ c.2.toNat < 2 ^ s.cfg.w.bits
  /-- Every record of the program store passed the load check (R354). -/
  programChecked : ∀ w ∈ s.prog.code, packedOk s.cfg.m.toNat s.cfg.nreg.toNat w = true
  /-- PENDING is valid exactly while an IN is suspended (R43). -/
  pendingStatus : s.pending.valid = true ↔ s.status = .awaitingInput
  /-- A pending register target is a register of the file (R98). -/
  pendingTarget : s.pending.valid = true → s.pending.kind = .reg →
    s.pending.value.toNat < s.cfg.nreg.toNat
  /-- A fault is recorded exactly while the machine is FAULTED (R44, R324). -/
  faultStatus : s.fault.code ≠ .none ↔ s.status = .faulted
  /-- The fault's register snapshot is the register file of the faulted machine (R44). -/
  faultSnapshot : s.status = .faulted → s.fault.regs = s.regs
  /-- LOAD_ERR is 0 on a loaded machine (R45). -/
  loadErrCleared : s.status ≠ .unloaded → s.loadErr = .none

/-! Shapes of the result statements: an instruction built by `mk` answers the given next state in every
state with the two reserved registers, on every usable operand. `f` and `cond` are the rule's own formula
over the configuration and the operand words. -/

/-- Roles [SET, GET]: operand 0 receives trunc_W(f(b)), STATUS = READY, the PC is cur + 1. -/
def ComputesUnary (mk : Operand → Operand → Instr) (f : Cfg → Word → Int) : Prop :=
  ∀ (s : State) (a b : Operand), s.hasReserved → s.canUse a → s.canUse b →
    exec (mk a b) s = .next (s.advanced.assigned a (f s.cfg (s.advanced.value b))).completed

/-- Roles [SET, GET, GET]: operand 0 receives trunc_W(f(b, c)). -/
def ComputesBinary (mk : Operand → Operand → Operand → Instr) (f : Cfg → Word → Word → Int) : Prop :=
  ∀ (s : State) (a b c : Operand), s.hasReserved → s.canUse a → s.canUse b → s.canUse c →
    exec (mk a b c) s =
      .next (s.advanced.assigned a (f s.cfg (s.advanced.value b) (s.advanced.value c))).completed

/-- As `ComputesUnary`, on a coherent configuration and a W-bit operand word. -/
def ComputesUnaryOnWords (mk : Operand → Operand → Instr) (f : Cfg → Word → Int) : Prop :=
  ∀ (s : State) (a b : Operand), s.hasReserved → s.canUse a → s.canUse b → s.cfg.Coherent →
    (s.advanced.value b).toNat < 2 ^ s.cfg.w.bits →
    exec (mk a b) s = .next (s.advanced.assigned a (f s.cfg (s.advanced.value b))).completed

/-- As `ComputesBinary`, on a coherent configuration and a W-bit first operand word. -/
def ComputesBinaryOnWords (mk : Operand → Operand → Operand → Instr) (f : Cfg → Word → Word → Int) :
    Prop :=
  ∀ (s : State) (a b c : Operand), s.hasReserved → s.canUse a → s.canUse b → s.canUse c →
    s.cfg.Coherent → (s.advanced.value b).toNat < 2 ^ s.cfg.w.bits →
    exec (mk a b c) s =
      .next (s.advanced.assigned a (f s.cfg (s.advanced.value b) (s.advanced.value c))).completed

/-- Roles [SET, GET, GET] with the divisor in operand 2: operand 0 receives trunc_W(f(b, c)) when c is not
0; when c is 0 the step raises DIV_BY_ZERO and only the PC has changed. -/
def Divides (mk : Operand → Operand → Operand → Instr) (f : Cfg → Word → Word → Int) : Prop :=
  ∀ (s : State) (a b c : Operand), s.hasReserved → s.canUse b → s.canUse c →
    ((s.advanced.value c).toNat ≠ 0 → s.canUse a →
      exec (mk a b c) s =
        .next (s.advanced.assigned a (f s.cfg (s.advanced.value b) (s.advanced.value c))).completed) ∧
    ((s.advanced.value c).toNat = 0 →
      exec (mk a b c) s = .next (s.faultedAs .divByZero 0 s.advanced))

/-- Roles [SET, GET, GET]: operand 0 receives CFG_M when the condition holds, else 0. -/
def SetsIf (mk : Operand → Operand → Operand → Instr) (cond : Cfg → Word → Word → Prop) : Prop :=
  ∀ (s : State) (a b c : Operand), s.hasReserved → s.canUse a → s.canUse b → s.canUse c →
    (cond s.cfg (s.advanced.value b) (s.advanced.value c) →
      exec (mk a b c) s = .next (s.advanced.assigned a s.cfg.m.toNat).completed) ∧
    (¬ cond s.cfg (s.advanced.value b) (s.advanced.value c) →
      exec (mk a b c) s = .next (s.advanced.assigned a 0).completed)

/-- Roles [GET, GET, GET]: the PC receives operand 0 when the condition holds, else it stays cur + 1. -/
def BranchesBinary (mk : Operand → Operand → Operand → Instr) (cond : Cfg → Word → Word → Prop) : Prop :=
  ∀ (s : State) (a b c : Operand), s.hasReserved → s.canUse a → s.canUse b → s.canUse c →
    (cond s.cfg (s.advanced.value b) (s.advanced.value c) →
      exec (mk a b c) s = .next (s.advanced.setReg 0 (s.advanced.value a).toNat).completed) ∧
    (¬ cond s.cfg (s.advanced.value b) (s.advanced.value c) →
      exec (mk a b c) s = .next s.advanced.completed)

/-- Roles [GET, GET]: the PC receives operand 0 when the condition holds, else it stays cur + 1. -/
def BranchesUnary (mk : Operand → Operand → Instr) (cond : Cfg → Word → Prop) : Prop :=
  ∀ (s : State) (a b : Operand), s.hasReserved → s.canUse a → s.canUse b →
    (cond s.cfg (s.advanced.value b) →
      exec (mk a b) s = .next (s.advanced.setReg 0 (s.advanced.value a).toNat).completed) ∧
    (¬ cond s.cfg (s.advanced.value b) → exec (mk a b) s = .next s.advanced.completed)

/-! Frames. -/

/-- The two states agree on everything no instruction writes: the configuration registers (R40), LOAD_ERR
(R45), the port registry (R46) and the program store (R48). -/
def SameSetup (s t : State) : Prop :=
  t.cfg = s.cfg ∧ t.loadErr = s.loadErr ∧ t.registry = s.registry ∧ t.prog = s.prog

/-- Every word of the data memory reads the same. -/
def SameMemory (s t : State) : Prop := ∀ a, t.wordAt a = s.wordAt a

/-- The environment's side is the same: the input script, the draw counter and the output history. -/
def SameEnvironment (s t : State) : Prop := t.oracle = s.oracle ∧ t.output = s.output

/-- PENDING, the fault registers and the diagnostic history are the same. -/
def SameRecords (s t : State) : Prop :=
  t.pending = s.pending ∧ t.fault = s.fault ∧ t.diagnostics = s.diagnostics

/-- Every register but those listed reads the same, and the file keeps its length. -/
def SameRegistersExcept (written : List Nat) (s t : State) : Prop :=
  t.regs.length = s.regs.length ∧ ∀ i, i ∉ written → t.regAt i = s.regAt i

/-- The register a target operand writes, if any (R126). -/
def writtenBy (o : Operand) : List Nat :=
  match o.kind with
  | .reg => [o.value.toNat]
  | _ => []

/-- The roles under which pass 1 resolves an operand (R93). -/
def inputRole : Role → Bool
  | .get => true
  | .getRam => true
  | .ramOffset => true
  | .set => false
  | .setRam => false

/-- Every register operand of the instruction lies in the register file (R98). -/
def State.inFile (s : State) (i : Instr) : Prop :=
  ∀ o ∈ i.operands, o.kind = .reg → o.value.toNat < s.regs.length

end Sys2Proof.Machine
end

