-- ==== Sys2Proof/Certificates/Slice0/Obligations.lean ====
section
/-! DEFINITION. The statements for the provers. Each docstring names the rules of the spec the statement
formalises. `s.advanced` is the state in which an instruction executes (the PC is cur + 1), `x.completed`
is `x` with STATUS = READY (the step returned Continue), and `s.faultedAs code info x` is `x` with the
fatal fault `code` taken for the instruction at the PC of `s`. -/

open Sys2Proof Sys2Proof.Machine

/-! Encoding (30_encoding.md). -/

/-- R95, R96: decoding the packed record of any instruction, with every operand at every value, gives the
instruction back. -/
def Obligations.DecodeInvertsEncode : Prop := ∀ i : Instr, decode (encode i) = .ok i

/-- R95, R102: a record that decodes is the packed record of the instruction it decodes to, so each word
has one meaning and no field is dropped. -/
def Obligations.EncodeInvertsDecode : Prop :=
  ∀ (w : PackedWord) (i : Instr), decode w = .ok i → encode i = w

/-- R95, R104, 95_test_vectors.md V3: a few words written out from the layout decode to the instructions
they stand for. -/
def Obligations.SampleWordsDecode : Prop :=
  decode 0x0000000000000005000000020106 = .ok (.imm ⟨.reg, 2⟩ ⟨.imm, 5⟩) ∧
  decode 0x0000000200000002000000021500 = .ok (.add ⟨.reg, 2⟩ ⟨.reg, 2⟩ ⟨.reg, 2⟩) ∧
  decode 0x0000000000000000000000010120 = .ok (.psh ⟨.reg, 1⟩) ∧
  decode 0x0000000000000007000000020143 = .ok (.inPort ⟨.reg, 2⟩ ⟨.imm, 7⟩) ∧
  decode 0x000000050000FFFF000000021137 = .ok (.llod ⟨.reg, 2⟩ ⟨.imm, 0xFFFF⟩ ⟨.reg, 5⟩) ∧
  decode 0x0000000400000002000000020415 = .ok (.brl ⟨.imm, 2⟩ ⟨.reg, 2⟩ ⟨.imm, 4⟩) ∧
  decode 0x0000000000000000000000000024 = .ok .hlt

/-- R102: an unassigned opcode, a non-zero RSV and a non-zero field of an unused slot are each rejected by
their own name. -/
def Obligations.ReservedEncodingsRejected : Prop :=
  ∀ w : PackedWord,
    (0x45 ≤ fieldOpc w → decode w = .error .unknownOpcode) ∧
    (fieldOpc w < 0x45 → fieldRsv w ≠ 0 → decode w = .error .reservedBits) ∧
    (fieldOpc w < 0x45 → fieldRsv w = 0 →
      (∃ n j, operandCount (fieldOpc w) = some n ∧ n ≤ j ∧ j < 3 ∧ operandAt w j ≠ ⟨.imm, 0⟩) →
      decode w = .error .unusedSlot)

/-- R354, R97, R98, R101, R102: a packed record passes the load check exactly when its opcode is unknown, or
it decodes and no operand is an Imm value above M or a Reg value that is no register index. A record in the
abstract form passes exactly when its opcode is unknown, or it carries n kinds and n values and no pair of
them violates the same two limits. -/
def Obligations.LoadChecksRecords : Prop :=
  ∀ (m nreg : Nat),
    (∀ (w : PackedWord) (i : Instr), decode w = .ok i →
      (codeItemOk m nreg (.packed w) = false ↔
        ∃ o ∈ i.operands, (o.kind = .imm ∧ m < o.value.toNat) ∨
          (o.kind = .reg ∧ nreg ≤ o.value.toNat))) ∧
    (∀ (w : PackedWord) (e : DecodeError), decode w = .error e →
      (codeItemOk m nreg (.packed w) = true ↔ e = .unknownOpcode)) ∧
    (∀ (opc : BitVec 8) (ks : List (BitVec 2)) (vs : List Nat), operandCount opc.toNat = none →
      codeItemOk m nreg (.fields opc ks vs) = true) ∧
    (∀ (opc : BitVec 8) (ks : List (BitVec 2)) (vs : List Nat) (n : Nat),
      operandCount opc.toNat = some n →
      (codeItemOk m nreg (.fields opc ks vs) = true ↔
        ks.length = n ∧ vs.length = n ∧
          ∀ kv ∈ ks.zip vs, (kv.1 = 0 → kv.2 ≤ m) ∧ (kv.1 = 1 → kv.2 < nreg)))

/-! Width arithmetic (00_scope.md R6, R7, R10). -/

/-- R10: `trunc_W(v)` is v mod 2^W for every integer v, and `signed_W` reads a W-bit word as two's
complement: it lies in [−SIGN, SMAX] and is congruent to the word mod 2^W. -/
def Obligations.WordReadings : Prop :=
  (∀ (w : Width) (v : Int), ((trunc w v).toNat : Int) = v % 2 ^ w.bits) ∧
  (∀ (c : Cfg) (v : Word), c.Coherent → v.toNat < 2 ^ c.w.bits →
    -(c.sign.toNat : Int) ≤ signed c v ∧ signed c v ≤ c.smax.toNat ∧ trunc c.w (signed c v) = v)

/-- R195 to R198: M − v is the complement of a word within W bits: bit by bit below W, and no bit at or
above W is set. -/
def Obligations.ComplementStaysWithinWidth : Prop :=
  ∀ (c : Cfg) (v : Word), c.Coherent → v.toNat < 2 ^ c.w.bits →
    ∀ i, (trunc c.w ((c.m.toNat : Int) - v.toNat)).getLsbD i = (decide (i < c.w.bits) && !v.getLsbD i)

/-! The step (40_execution_cycle.md). -/

/-- R131: the step over a fetched record that decodes is the execution of the instruction, which itself
advances the PC. -/
def Obligations.StepRunsDecodedInstruction : Prop :=
  ∀ (s : State) (w : PackedWord) (i : Instr), s.hasReserved →
    (s.status = .ready ∨ s.status = .halted) → s.pc.toNat < s.cfg.plen →
    s.prog.code[s.pc.toNat]? = some w → decode w = .ok i → step s = exec i s

/-- R121, R362, R363: outside READY and HALTED `step` and `run` are refused; in READY and HALTED, on a
machine that meets the invariant, they are not. finish_pending_input changes nothing except in
AWAITING_INPUT, where it ends the wait. -/
def Obligations.CallsRefusedOrIgnored : Prop :=
  (∀ (s : State) (burst k : Nat), s.status ≠ .ready → s.status ≠ .halted →
    step s = .refused (.callRefused s.status) ∧ hostRun burst k s = .refused (.callRefused s.status)) ∧
  (∀ (s : State) (burst k : Nat) (r : Refusal), s.Inv → (s.status = .ready ∨ s.status = .halted) →
    step s ≠ .refused r ∧ hostRun burst k s ≠ .refused r) ∧
  (∀ (s : State) (v : Nat), s.Inv →
    (s.status ≠ .awaitingInput → finishPendingInput v s = .next s) ∧
    (s.status = .awaitingInput → ∃ t, finishPendingInput v s = .next t ∧
      (t.status = .ready ∨ t.status = .faulted)))

/-- R123: past the end of the program, or on HLT, the step advances the PC, sets STATUS = HALTED and does
nothing else. -/
def Obligations.HaltingStepChangesPcAndStatusOnly : Prop :=
  ∀ s : State, s.hasReserved → (s.status = .ready ∨ s.status = .halted) →
    (s.cfg.plen ≤ s.pc.toNat ∨
      (s.pc.toNat < s.cfg.plen ∧ s.prog.code[s.pc.toNat]? = some (encode .hlt))) →
    step s = .next (s.advanced.withStatus .halted)

/-- R101, R124: executing an unknown opcode raises UNKNOWN_OPCODE, the PC having been advanced, whatever
the other bits of the record. -/
def Obligations.UnknownOpcodeFaults : Prop :=
  ∀ (s : State) (w : PackedWord), s.hasReserved → (s.status = .ready ∨ s.status = .halted) →
    s.pc.toNat < s.cfg.plen → s.prog.code[s.pc.toNat]? = some w → 0x45 ≤ fieldOpc w →
    step s = .next (s.faultedAs .unknownOpcode 0 s.advanced)

/-- R120, R121: on a machine that meets the invariant, a step in READY or HALTED always answers a next
state, in one of the four outcomes. -/
def Obligations.StepAlwaysProceeds : Prop :=
  ∀ s : State, s.Inv → (s.status = .ready ∨ s.status = .halted) →
    ∃ t, step s = .next t ∧
      (t.status = .ready ∨ t.status = .halted ∨ t.status = .awaitingInput ∨ t.status = .faulted)

/-- R134, R135, R138: a `run` ends in the state after k complete bursts when its deadline elapses, and
otherwise at the first step that did not return Continue; on a machine that meets the invariant it always
ends. The run of the program is over exactly when that last step returned Halted, with the same final state
whether the host called `run` once or `step` n times. Calls after the end do not change it; while an input is
awaited no step or run ends it, and after a fatal fault no call of the run does. -/
def Obligations.RunIsRepeatedSteps : Prop :=
  (∀ (s : State) (burst k : Nat), s.Inv → (s.status = .ready ∨ s.status = .halted) → 1 ≤ burst → 1 ≤ k →
    ∃ n t, 1 ≤ n ∧ n ≤ burst * k ∧ hostRun burst k s = .next t ∧
      Sys2Proof.core.run n s = .next t ∧ (t.status = .ready → n = burst * k) ∧
      (∀ m, 1 ≤ m → m < n → ∃ u, Sys2Proof.core.run m s = .next u ∧ u.status = .ready) ∧
      endOfRun burst [.run k] s = (if t.status = .halted then some t.finalState else none) ∧
      endOfRun burst (List.replicate n .step) s =
        (if t.status = .halted then some t.finalState else none)) ∧
  (∀ (s : State) (burst : Nat) (calls more : List HostCall) (f : FinalState),
    endOfRun burst calls s = some f → endOfRun burst (calls ++ more) s = some f) ∧
  (∀ (s : State) (burst : Nat) (calls : List HostCall), s.status = .awaitingInput →
    (∀ c ∈ calls, c.executes = true) → endOfRun burst calls s = none) ∧
  (∀ (s : State) (burst : Nat) (calls : List HostCall), s.Inv → s.status = .faulted →
    endOfRun burst calls s = none)

/-! Data movement (41_data_movement.md). -/

/-- R160, R161: IMM and MOV copy their source into the destination, an Imm destination discarding it. -/
def Obligations.MoveResults : Prop :=
  ComputesUnary .imm (fun _ b => b.toNat) ∧ ComputesUnary .mov (fun _ b => b.toNat)

/-- R162, R241: NOP advances the PC and changes nothing else, and HLT halts with the PC advanced and
nothing else changed but STATUS. -/
def Obligations.NopAndHltResults : Prop :=
  ∀ s : State, s.hasReserved →
    exec .nop s = .next s.advanced.completed ∧ exec .hlt s = .next (s.advanced.withStatus .halted)

/-- R163, R166, R65, R67: LOD and LLOD load the word at the unwrapped address into the destination. -/
def Obligations.LoadResults : Prop :=
  (∀ (s : State) (a b : Operand), s.hasReserved → s.canUse a → s.canUse b →
    (s.advanced.value b).toNat < s.msize →
    exec (.lod a b) s =
      .next (s.advanced.assigned a (s.wordAt (s.advanced.value b).toNat).toNat).completed) ∧
  (∀ (s : State) (a b c : Operand), s.hasReserved → s.canUse a → s.canUse b → s.canUse c →
    (s.advanced.value c).toNat + (s.advanced.value b).toNat < s.msize →
    exec (.llod a b c) s =
      .next (s.advanced.assigned a
        (s.wordAt ((s.advanced.value c).toNat + (s.advanced.value b).toNat)).toNat).completed)

/-- R164, R165, R167, R66, R67: STR, LSTR and CPY store one word at the unwrapped address. -/
def Obligations.StoreResults : Prop :=
  (∀ (s : State) (a b : Operand), s.hasReserved → s.canUse a → s.canUse b →
    (s.advanced.value a).toNat < s.msize →
    exec (.str a b) s =
      .next (s.advanced.stored (s.advanced.value a).toNat (s.advanced.value b)).completed) ∧
  (∀ (s : State) (a b c : Operand), s.hasReserved → s.canUse a → s.canUse b → s.canUse c →
    (s.advanced.value a).toNat + (s.advanced.value b).toNat < s.msize →
    exec (.lstr a b c) s =
      .next (s.advanced.stored ((s.advanced.value a).toNat + (s.advanced.value b).toNat)
        (s.advanced.value c)).completed) ∧
  (∀ (s : State) (a b : Operand), s.hasReserved → s.canUse a → s.canUse b →
    (s.advanced.value b).toNat < s.msize → (s.advanced.value a).toNat < s.msize →
    exec (.cpy a b) s =
      .next (s.advanced.stored (s.advanced.value a).toNat
        (s.wordAt (s.advanced.value b).toNat)).completed)

/-- R65, R163, R165, R166, R325: a read at or past MSIZE raises LOAD_OUT_OF_BOUNDS at the unwrapped address
with nothing but the PC changed; CPY checks its source address first. -/
def Obligations.LoadsOutOfBoundsFault : Prop :=
  ∀ (s : State) (a b c : Operand), s.hasReserved → s.canUse b →
    (s.msize ≤ (s.advanced.value b).toNat →
      exec (.lod a b) s =
        .next (s.faultedAs .loadOutOfBounds (s.advanced.value b).toNat s.advanced) ∧
      exec (.cpy a b) s =
        .next (s.faultedAs .loadOutOfBounds (s.advanced.value b).toNat s.advanced)) ∧
    (s.canUse c → s.msize ≤ (s.advanced.value c).toNat + (s.advanced.value b).toNat →
      exec (.llod a b c) s =
        .next (s.faultedAs .loadOutOfBounds
          ((s.advanced.value c).toNat + (s.advanced.value b).toNat) s.advanced))

/-- R66, R164, R165, R167: a store at or past MSIZE raises STORE_OUT_OF_BOUNDS at the unwrapped address;
memory is unchanged. -/
def Obligations.StoresOutOfBoundsFault : Prop :=
  ∀ (s : State) (a b c : Operand), s.hasReserved → s.canUse a → s.canUse b →
    (s.msize ≤ (s.advanced.value a).toNat →
      exec (.str a b) s =
        .next (s.faultedAs .storeOutOfBounds (s.advanced.value a).toNat s.advanced) ∧
      ((s.advanced.value b).toNat < s.msize →
        exec (.cpy a b) s =
          .next (s.faultedAs .storeOutOfBounds (s.advanced.value a).toNat s.advanced))) ∧
    (s.canUse c → s.msize ≤ (s.advanced.value a).toNat + (s.advanced.value b).toNat →
      exec (.lstr a b c) s =
        .next (s.faultedAs .storeOutOfBounds
          ((s.advanced.value a).toNat + (s.advanced.value b).toNat) s.advanced))

/-! The ALU (42_alu.md). -/

/-- R182 to R187, R191: the result of each arithmetic instruction that cannot fault, before trunc_W. -/
def Obligations.ArithmeticResults : Prop :=
  ComputesBinary .add (fun _ b c => (b.toNat : Int) + c.toNat) ∧
  ComputesBinary .sub (fun _ b c => (b.toNat : Int) - c.toNat) ∧
  ComputesUnary .inc (fun _ b => (b.toNat : Int) + 1) ∧
  ComputesUnary .dec (fun _ b => (b.toNat : Int) - 1) ∧
  ComputesUnary .neg (fun _ b => 0 - (b.toNat : Int)) ∧
  ComputesBinary .mlt (fun _ b c => (b.toNat : Int) * c.toNat) ∧
  ComputesUnary .abs (fun cfg b => |signed cfg b|)

/-- R188, R189, R190: quotient and remainder for a divisor other than 0, and DIV_BY_ZERO for 0, which
writes nothing. The signed quotient is rounded toward zero. -/
def Obligations.DivisionResults : Prop :=
  Divides .div (fun _ b c => (b.toNat : Int) / c.toNat) ∧
  Divides .mod (fun _ b c => (b.toNat : Int) - c.toNat * ((b.toNat : Int) / c.toNat)) ∧
  Divides .sdiv (fun cfg b c => Int.tdiv (signed cfg b) (signed cfg c))

/-- R192 to R198: the result of each bitwise instruction. -/
def Obligations.BitwiseResults : Prop :=
  ComputesBinary .and (fun _ b c => (b &&& c).toNat) ∧
  ComputesBinary .or (fun _ b c => (b ||| c).toNat) ∧
  ComputesBinary .xor (fun _ b c => (b ^^^ c).toNat) ∧
  ComputesBinary .nor (fun cfg b c => (cfg.m.toNat : Int) - (b ||| c).toNat) ∧
  ComputesBinary .nand (fun cfg b c => (cfg.m.toNat : Int) - (b &&& c).toNat) ∧
  ComputesBinary .xnor (fun cfg b c => (cfg.m.toNat : Int) - (b ^^^ c).toNat) ∧
  ComputesUnary .not (fun cfg b => (cfg.m.toNat : Int) - b.toNat)

/-- R199 to R204: the result of each shift instruction as the mathematical formula, at every shift count,
W or more included. `/` is floor division here (the divisor is positive). -/
def Obligations.ShiftResults : Prop :=
  ComputesUnary .lsh (fun _ b => (b.toNat : Int) * 2) ∧
  ComputesUnary .rsh (fun _ b => (b.toNat : Int) / 2) ∧
  ComputesBinaryOnWords .bsl (fun _ b c => (b.toNat : Int) * 2 ^ c.toNat) ∧
  ComputesBinaryOnWords .bsr (fun _ b c => (b.toNat : Int) / 2 ^ c.toNat) ∧
  ComputesUnary .srs (fun cfg b => signed cfg b / 2) ∧
  ComputesBinaryOnWords .bss (fun cfg b c => signed cfg b / 2 ^ c.toNat)

/-- R201, R202, R204: a shift count of W or more gives 0 for BSL and BSR, and the sign fill (M or 0) for
BSS. -/
def Obligations.LongShiftsFill : Prop :=
  ∀ (s : State) (a b c : Operand), s.hasReserved → s.canUse a → s.canUse b → s.canUse c →
    s.cfg.Coherent → (s.advanced.value b).toNat < 2 ^ s.cfg.w.bits →
    s.cfg.w.bits ≤ (s.advanced.value c).toNat →
    exec (.bsl a b c) s = .next (s.advanced.assigned a 0).completed ∧
    exec (.bsr a b c) s = .next (s.advanced.assigned a 0).completed ∧
    exec (.bss a b c) s =
      .next (s.advanced.assigned a
        (if s.cfg.sign.toNat ≤ (s.advanced.value b).toNat then (s.cfg.m.toNat : Int) else 0)).completed

/-- R205 to R216, R181: each set instruction writes M when its condition holds and 0 otherwise. -/
def Obligations.SetResults : Prop :=
  SetsIf .sete (fun _ b c => b.toNat = c.toNat) ∧
  SetsIf .setne (fun _ b c => b.toNat ≠ c.toNat) ∧
  SetsIf .setg (fun _ b c => b.toNat > c.toNat) ∧
  SetsIf .setl (fun _ b c => b.toNat < c.toNat) ∧
  SetsIf .setge (fun _ b c => b.toNat ≥ c.toNat) ∧
  SetsIf .setle (fun _ b c => b.toNat ≤ c.toNat) ∧
  SetsIf .setc (fun cfg b c => b.toNat + c.toNat > cfg.m.toNat) ∧
  SetsIf .setnc (fun cfg b c => b.toNat + c.toNat ≤ cfg.m.toNat) ∧
  SetsIf .ssetl (fun cfg b c => signed cfg b < signed cfg c) ∧
  SetsIf .ssetg (fun cfg b c => signed cfg b > signed cfg c) ∧
  SetsIf .ssetle (fun cfg b c => signed cfg b ≤ signed cfg c) ∧
  SetsIf .ssetge (fun cfg b c => signed cfg b ≥ signed cfg c)

/-! Control transfer (43_control_transfer.md). -/

/-- R242 to R248: JMP sets the PC to its target, and the unsigned branches do so when their condition
holds. -/
def Obligations.JumpAndUnsignedBranchResults : Prop :=
  (∀ (s : State) (a : Operand), s.hasReserved → s.canUse a →
    exec (.jmp a) s = .next (s.advanced.setReg 0 (s.advanced.value a).toNat).completed) ∧
  BranchesBinary .bge (fun _ b c => b.toNat ≥ c.toNat) ∧
  BranchesBinary .brl (fun _ b c => b.toNat < c.toNat) ∧
  BranchesBinary .brg (fun _ b c => b.toNat > c.toNat) ∧
  BranchesBinary .ble (fun _ b c => b.toNat ≤ c.toNat) ∧
  BranchesBinary .bre (fun _ b c => b.toNat = c.toNat) ∧
  BranchesBinary .bne (fun _ b c => b.toNat ≠ c.toNat)

/-- R249 to R254: the unary branches, taken and not taken. -/
def Obligations.UnaryBranchResults : Prop :=
  BranchesUnary .brz (fun _ b => b.toNat = 0) ∧
  BranchesUnary .bnz (fun _ b => b.toNat ≠ 0) ∧
  BranchesUnary .brn (fun cfg b => b.toNat ≥ cfg.sign.toNat) ∧
  BranchesUnary .brp (fun cfg b => b.toNat < cfg.sign.toNat) ∧
  BranchesUnary .bod (fun _ b => b.toNat % 2 = 1) ∧
  BranchesUnary .bev (fun _ b => b.toNat % 2 = 0)

/-- R255 to R260: the carry and the signed branches, taken and not taken. -/
def Obligations.CarryAndSignedBranchResults : Prop :=
  BranchesBinary .brc (fun cfg b c => b.toNat + c.toNat > cfg.m.toNat) ∧
  BranchesBinary .bnc (fun cfg b c => b.toNat + c.toNat ≤ cfg.m.toNat) ∧
  BranchesBinary .sbrl (fun cfg b c => signed cfg b < signed cfg c) ∧
  BranchesBinary .sbrg (fun cfg b c => signed cfg b > signed cfg c) ∧
  BranchesBinary .sble (fun cfg b c => signed cfg b ≤ signed cfg c) ∧
  BranchesBinary .sbge (fun cfg b c => signed cfg b ≥ signed cfg c)

/-! Stack (44_stack.md, 20_memory.md). -/

/-- R280, R261, R69: PSH stores its operand's word below the SP and decrements the SP; CAL stores the
return address cur + 1 there, decrements the SP and jumps. -/
def Obligations.PushAndCallResults : Prop :=
  ∀ (s : State) (a : Operand), s.hasReserved → s.canUse a → s.sp.toNat < 2 ^ s.cfg.w.bits →
    s.hsb < s.sp.toNat → s.sp.toNat ≤ s.msize →
    exec (.psh a) s =
      .next ((s.advanced.setReg 1 ((s.sp.toNat : Int) - 1)).stored (s.sp.toNat - 1)
        (s.advanced.value a)).completed ∧
    exec (.cal a) s =
      .next ((((s.advanced.setReg 1 ((s.sp.toNat : Int) - 1)).stored (s.sp.toNat - 1) s.advanced.pc).setReg
        0 (s.advanced.value a).toNat).completed)

/-- R281, R262, R70: POP increments the SP and then writes the word that the SP addressed, so that POP SP
ends with the popped word in the SP; RET increments the SP and jumps to that word. -/
def Obligations.PopAndReturnResults : Prop :=
  ∀ (s : State) (a : Operand), s.hasReserved → s.sp.toNat < s.msize →
    (s.canUse a →
      exec (.pop a) s =
        .next ((s.advanced.setReg 1 ((s.sp.toNat : Int) + 1)).assigned a
          (s.wordAt s.sp.toNat).toNat).completed) ∧
    exec .ret s =
      .next (((s.advanced.setReg 1 ((s.sp.toNat : Int) + 1)).setReg 0
        (s.wordAt s.sp.toNat).toNat).completed)

/-- R69, R261, R280: at or below the heap/stack boundary a push raises STACK_OVERFLOW: nothing is pushed, the
SP and memory are unchanged. -/
def Obligations.PushAtBoundaryOverflows : Prop :=
  ∀ (s : State) (a : Operand), s.hasReserved → s.canUse a → s.sp.toNat ≤ s.hsb →
    exec (.psh a) s = .next (s.faultedAs .stackOverflow s.sp.toNat s.advanced) ∧
    exec (.cal a) s = .next (s.faultedAs .stackOverflow s.sp.toNat s.advanced)

/-- R70, R262, R281: at or beyond MSIZE a pop raises STACK_UNDERFLOW with the SP unchanged, whatever the
destination. -/
def Obligations.PopAtTopUnderflows : Prop :=
  ∀ (s : State) (a : Operand), s.hasReserved → s.msize ≤ s.sp.toNat →
    exec (.pop a) s = .next (s.faultedAs .stackUnderflow s.sp.toNat s.advanced) ∧
    exec .ret s = .next (s.faultedAs .stackUnderflow s.sp.toNat s.advanced)

/-- R69, R280, R323: a push with the SP above MSIZE decrements the SP and then raises STORE_OUT_OF_BOUNDS at
the decremented address; the decrement stays. -/
def Obligations.PushAboveMemoryFaultsAfterDecrement : Prop :=
  ∀ (s : State) (a : Operand), s.hasReserved → s.canUse a → s.sp.toNat < 2 ^ s.cfg.w.bits →
    s.hsb < s.sp.toNat → s.msize < s.sp.toNat →
    exec (.psh a) s =
      .next (s.faultedAs .storeOutOfBounds (s.sp.toNat - 1)
        (s.advanced.setReg 1 ((s.sp.toNat : Int) - 1))) ∧
    exec (.cal a) s =
      .next (s.faultedAs .storeOutOfBounds (s.sp.toNat - 1)
        (s.advanced.setReg 1 ((s.sp.toNat : Int) - 1)))

/-- R71: a push followed by a pop, with nothing between them, restores the SP and returns the pushed value
truncated to W bits. -/
def Obligations.PushThenPopRestores : Prop :=
  ∀ (s t : State) (v : Word), s.hasReserved → s.mem.wf → s.sp.toNat < 2 ^ s.cfg.w.bits →
    push v s = .ok t → ∃ u, pop t = .ok (trunc s.cfg.w v.toNat, u) ∧ u.sp = s.sp

/-- R282: PSH of any word v followed by POP to a register other than the PC and the SP leaves the SP as it
was, the register equal to v, and v in memory below the SP. -/
def Obligations.PshThenPopMovesWord : Prop :=
  ∀ (s : State) (a d : Operand), s.Inv → s.hasReserved → s.canUse a →
    (s.advanced.value a).toNat < 2 ^ s.cfg.w.bits →
    d.kind = .reg → 2 ≤ d.value.toNat → d.value.toNat < s.regs.length →
    s.hsb < s.sp.toNat → s.sp.toNat ≤ s.msize →
    ∃ t u, exec (.psh a) s = .next t ∧ exec (.pop d) t = .next u ∧ u.sp = s.sp ∧
      u.regAt d.value.toNat = s.advanced.value a ∧ u.wordAt (s.sp.toNat - 1) = s.advanced.value a

/-- R65, R66: one read and one write of data memory. At or past MSIZE they raise LOAD_OUT_OF_BOUNDS and
STORE_OUT_OF_BOUNDS at that address, the state unchanged and FAULT_ACCESS load and store; below it a read
returns the word and a write stores the word truncated to W bits there, leaving every other word and
everything else as it was. -/
def Obligations.MemoryAccessesAreCheckedAndExact : Prop :=
  ∀ (s : State) (a : Nat) (v : Word), s.mem.wf →
    (s.msize ≤ a →
      memRead a s = .raise .loadOutOfBounds a s ∧ memWrite a v s = .raise .storeOutOfBounds a s ∧
      faultAccess .loadOutOfBounds = .load ∧ faultAccess .storeOutOfBounds = .store) ∧
    (a < s.msize → memRead a s = .ok (s.wordAt a) ∧
      ∃ t, memWrite a v s = .ok t ∧ memRead a t = .ok (trunc s.cfg.w v.toNat) ∧
        (∀ b, b ≠ a → t.wordAt b = s.wordAt b) ∧ t.mem.wf ∧ { t with mem := s.mem } = s)

/-! Input and output (45_io.md). -/

/-- R294, R292, R296, R300, R303: IN on an unbound port writes 0, emits one warning and completes; on a
bound port whose next scripted answer is a value it writes that value, truncated, and completes; where that
answer is Pending it suspends, PENDING recording the destination operand and the index of the IN. -/
def Obligations.InResults : Prop :=
  ∀ (s : State) (a b : Operand), s.hasReserved → s.canUse b →
    (s.canUse a → boundDevice s.registry.inMap (s.advanced.value b) = none →
      exec (.inPort a b) s =
        .next (((s.advanced.report (.warn .unboundInput (s.advanced.value b))).assigned a 0).completed)) ∧
    (∀ (d v : Nat) (rest : List InputAnswer), s.canUse a →
      boundDevice s.registry.inMap (s.advanced.value b) = some d → s.oracle.script = .value v :: rest →
      exec (.inPort a b) s =
        .next (((s.advanced.withOracle { s.oracle with script := rest }).assigned a v).completed)) ∧
    (∀ (d : Nat) (rest : List InputAnswer),
      boundDevice s.registry.inMap (s.advanced.value b) = some d → s.oracle.script = .pending :: rest →
      exec (.inPort a b) s =
        .next (((s.advanced.withOracle { s.oracle with script := rest }).withPending
          { valid := true, kind := a.kind, value := a.value, index := s.pc }).withStatus .awaitingInput))

/-- R303, U10: with the script exhausted a bound device answers freely: IN completes with the value of the
free answer, or suspends, whatever its destination, as that answer says. The answer is the model's free
value (log entry 5), and the statement holds whatever it is. A value for a destination of an unrecognised
kind is BadKindTargetFaults. -/
def Obligations.InFollowsFreeAnswer : Prop :=
  ∀ (s : State) (a b : Operand) (d : Nat), s.hasReserved → s.canUse b →
    boundDevice s.registry.inMap (s.advanced.value b) = some d → s.oracle.script = [] →
    (∀ v, s.canUse a → Config.deviceAnswer d (s.advanced.value b) s.oracle.draws = .value v →
      exec (.inPort a b) s =
        .next (((s.advanced.withOracle { s.oracle with draws := s.oracle.draws + 1 }).assigned a
          v).completed)) ∧
    (Config.deviceAnswer d (s.advanced.value b) s.oracle.draws = .pending →
      exec (.inPort a b) s =
        .next (((s.advanced.withOracle { s.oracle with draws := s.oracle.draws + 1 }).withPending
          { valid := true, kind := a.kind, value := a.value, index := s.pc }).withStatus .awaitingInput))

/-- R295, R293: OUT to a bound port appends the output event (port, value); to an unbound port it emits one
warning and drops the value. It completes in both cases. -/
def Obligations.OutResults : Prop :=
  ∀ (s : State) (a b : Operand), s.hasReserved → s.canUse a → s.canUse b →
    (∀ d, boundDevice s.registry.outMap (s.advanced.value a) = some d →
      exec (.outPort a b) s =
        .next ((s.advanced.emit (.out (s.advanced.value a) (s.advanced.value b))).completed)) ∧
    (boundDevice s.registry.outMap (s.advanced.value a) = none →
      exec (.outPort a b) s =
        .next ((s.advanced.report (.warn .unboundOutput (s.advanced.value a))).completed))

/-- R297: finish_pending_input writes the recorded destination only, clears PENDING and returns to READY; it
is ignored with nothing pending, discards for an Imm destination and faults for kinds 2 and 3. -/
def Obligations.ResumeWritesDestinationOnly : Prop :=
  ∀ (s : State) (v : Nat),
    (s.pending.valid = false → finishPendingInput v s = .next s) ∧
    (s.pending.valid = true → s.pending.kind = .imm →
      finishPendingInput v s =
        .next ((s.withPending { s.pending with valid := false }).withStatus .ready)) ∧
    (s.pending.valid = true → s.pending.kind = .reg → s.pending.value.toNat < s.regs.length →
      finishPendingInput v s =
        .next (((s.setReg s.pending.value.toNat v).withPending
          { s.pending with valid := false }).withStatus .ready)) ∧
    (s.pending.valid = true → (s.pending.kind = .unknown2 ∨ s.pending.kind = .unknown3) →
      finishPendingInput v s = .next (raiseFault .badOperandKind s.pending.index 0 s))

/-- R291: registering a device binds its input and output ports, the last writer winning, appends its reset
hook, and changes nothing else. -/
def Obligations.RegisterDeviceBindsPorts : Prop :=
  ∀ (d : Device) (s : State) (p : Word),
    boundDevice (registerDevice d s).registry.inMap p =
      (if p ∈ d.inputs then some d.id else boundDevice s.registry.inMap p) ∧
    boundDevice (registerDevice d s).registry.outMap p =
      (if p ∈ d.outputs then some d.id else boundDevice s.registry.outMap p) ∧
    (registerDevice d s).registry.resetList =
      (if d.resetHook then s.registry.resetList ++ [d.id] else s.registry.resetList) ∧
    { registerDevice d s with registry := s.registry } = s

/-! Faults (60_exceptions.md). -/

/-- R321, R322, R363: what taking a fatal fault writes: the fault registers, PENDING.valid, STATUS and the
fault report, and nothing else; a step of the faulted machine is refused (R363). -/
def Obligations.FatalFaultEffects : Prop :=
  ∀ (s : State) (code : FaultCode) (pc : Word) (info : Nat),
    (raiseFault code pc info s).fault.code = code ∧
    (raiseFault code pc info s).fault.pc = pc ∧
    (raiseFault code pc info s).fault.addr =
      (if code = .loadOutOfBounds ∨ code = .storeOutOfBounds then info else 0) ∧
    (raiseFault code pc info s).fault.access =
      (if code = .loadOutOfBounds then .load else if code = .storeOutOfBounds then .store else .none) ∧
    (raiseFault code pc info s).fault.regs = s.regs ∧
    (raiseFault code pc info s).pending = { s.pending with valid := false } ∧
    (raiseFault code pc info s).status = .faulted ∧
    (raiseFault code pc info s).diagnostics =
      s.diagnostics ++ [.faultReport (raiseFault code pc info s).fault] ∧
    { raiseFault code pc info s with
      fault := s.fault, pending := s.pending, status := s.status, diagnostics := s.diagnostics } = s ∧
    step (raiseFault code pc info s) = .refused (.callRefused .faulted)

/-- R125, R127, R323: an input operand of an unrecognised kind raises BAD_OPERAND_KIND in pass 1, before
anything but the PC has changed, whatever the instruction and its other operands. -/
def Obligations.BadKindInputFaults : Prop :=
  ∀ (s : State) (i : Instr) (roles : List Role), s.hasReserved → s.inFile i →
    dispatchRoles (opcodeOf i).toNat = some roles →
    (∃ e ∈ roles.zip i.operands, inputRole e.1 = true ∧ e.2.badKind) →
    exec i s = .next (s.faultedAs .badOperandKind 0 s.advanced)

/-- R126, R130, R281, R323: a destination of an unrecognised kind raises BAD_OPERAND_KIND in pass 2, after
everything before it. For the ALU instructions, the moves, the loads and the stores only the PC has changed
by then; for POP the SP has been incremented, and for IN the answer, scripted or the model's free value (log
entry 5), has been consumed or the warning emitted. -/
def Obligations.BadKindTargetFaults : Prop :=
  (∀ (s : State) (i : Instr) (roles : List Role) (a : Operand) (rest : List Operand), s.hasReserved →
    dispatchRoles (opcodeOf i).toNat = some roles →
    (roles = [.set, .get] ∨ roles = [.set, .get, .get]) →
    opcodeOf i ∉ [(0x29 : BitVec 8), 0x2A, 0x39, 0x43] →
    i.operands = a :: rest → a.badKind → (∀ o ∈ rest, s.canUse o) →
    exec i s = .next (s.faultedAs .badOperandKind 0 s.advanced)) ∧
  (∀ (s : State) (a b c : Operand), s.hasReserved → a.badKind → s.canUse b → s.canUse c →
    exec (.str a b) s = .next (s.faultedAs .badOperandKind 0 s.advanced) ∧
    exec (.lstr a b c) s = .next (s.faultedAs .badOperandKind 0 s.advanced) ∧
    ((s.advanced.value b).toNat < s.msize →
      exec (.cpy a b) s = .next (s.faultedAs .badOperandKind 0 s.advanced) ∧
      exec (.lod a b) s = .next (s.faultedAs .badOperandKind 0 s.advanced)) ∧
    ((s.advanced.value c).toNat + (s.advanced.value b).toNat < s.msize →
      exec (.llod a b c) s = .next (s.faultedAs .badOperandKind 0 s.advanced)) ∧
    ((s.advanced.value c).toNat ≠ 0 →
      exec (.div a b c) s = .next (s.faultedAs .badOperandKind 0 s.advanced) ∧
      exec (.mod a b c) s = .next (s.faultedAs .badOperandKind 0 s.advanced) ∧
      exec (.sdiv a b c) s = .next (s.faultedAs .badOperandKind 0 s.advanced))) ∧
  (∀ (s : State) (a : Operand), s.hasReserved → a.badKind → s.sp.toNat < s.msize →
    exec (.pop a) s =
      .next (s.faultedAs .badOperandKind 0 (s.advanced.setReg 1 ((s.sp.toNat : Int) + 1)))) ∧
  (∀ (s : State) (a b : Operand), s.hasReserved → a.badKind → s.canUse b →
    (boundDevice s.registry.inMap (s.advanced.value b) = none →
      exec (.inPort a b) s = .next (s.faultedAs .badOperandKind 0
        (s.advanced.report (.warn .unboundInput (s.advanced.value b))))) ∧
    (∀ (d v : Nat) (rest : List InputAnswer),
      boundDevice s.registry.inMap (s.advanced.value b) = some d → s.oracle.script = .value v :: rest →
      exec (.inPort a b) s = .next (s.faultedAs .badOperandKind 0
        (s.advanced.withOracle { s.oracle with script := rest }))) ∧
    (∀ (d v : Nat), boundDevice s.registry.inMap (s.advanced.value b) = some d → s.oracle.script = [] →
      Config.deviceAnswer d (s.advanced.value b) s.oracle.draws = .value v →
      exec (.inPort a b) s = .next (s.faultedAs .badOperandKind 0
        (s.advanced.withOracle { s.oracle with draws := s.oracle.draws + 1 }))))

/-- R323, R324: whatever the instruction, a step that ends in a fault keeps the configuration, the program
store, the registry and LOAD_ERR, has left every word of memory as it was, has advanced the PC, and has left
every register but the PC and the SP. -/
def Obligations.FaultingStepKeepsMemory : Prop :=
  ∀ s t : State, s.hasReserved → step s = .next t → t.status = .faulted →
    SameSetup s t ∧ SameMemory s t ∧ SameRegistersExcept [0, 1] s t ∧ t.pc = s.advanced.pc

/-! Frames. -/

/-- R30, R39, R133: an instruction with roles [SET, GET] or [SET, GET, GET] other than IN (IMM, MOV, and
every ALU instruction of 42_alu.md), and LOD and LLOD, change no word of memory, and no register but the PC
and the register their operand 0 names. Unless the step faults they change no PENDING, fault register or
diagnostic. -/
def Obligations.RegisterInstructionFrame : Prop :=
  ∀ (s t : State) (i : Instr) (roles : List Role) (a : Operand) (rest : List Operand), s.hasReserved →
    dispatchRoles (opcodeOf i).toNat = some roles →
    (roles = [.set, .get] ∨ roles = [.set, .get, .get] ∨ roles = [.set, .getRam] ∨
      roles = [.set, .ramOffset, .getRam]) →
    opcodeOf i ≠ 0x43 → i.operands = a :: rest → exec i s = .next t →
    SameSetup s t ∧ SameEnvironment s t ∧ SameMemory s t ∧
    SameRegistersExcept (0 :: writtenBy a) s t ∧
    (t.status = .ready ∨ t.status = .faulted) ∧ (t.status ≠ .faulted → SameRecords s t)

/-- R240, R242 to R260: JMP, every branch, NOP and HLT change no register but the PC and no word of
memory. -/
def Obligations.BranchFrame : Prop :=
  ∀ (s t : State) (i : Instr), s.hasReserved →
    (i = .nop ∨ i = .hlt ∨ (∃ a, i = .jmp a) ∨
      (∃ roles, dispatchRoles (opcodeOf i).toNat = some roles ∧ opcodeOf i ≠ 0x44 ∧
        (roles = [.get, .get] ∨ roles = [.get, .get, .get]))) →
    exec i s = .next t →
    SameSetup s t ∧ SameEnvironment s t ∧ SameMemory s t ∧ SameRegistersExcept [0] s t ∧
    (t.status ≠ .faulted → SameRecords s t)

/-- R66, R164, R165, R167: STR, CPY and LSTR change no register but the PC, and no word of memory but the
one at the address they store to. -/
def Obligations.StoreFrame : Prop :=
  ∀ (s t : State) (a b c : Operand), s.hasReserved →
    (exec (.str a b) s = .next t ∨ exec (.cpy a b) s = .next t →
      SameSetup s t ∧ SameEnvironment s t ∧ SameRegistersExcept [0] s t ∧
      (t.status ≠ .faulted → SameRecords s t) ∧
      ∀ x, x ≠ (s.advanced.value a).toNat → t.wordAt x = s.wordAt x) ∧
    (exec (.lstr a b c) s = .next t →
      SameSetup s t ∧ SameEnvironment s t ∧ SameRegistersExcept [0] s t ∧
      (t.status ≠ .faulted → SameRecords s t) ∧
      ∀ x, x ≠ (s.advanced.value a).toNat + (s.advanced.value b).toNat → t.wordAt x = s.wordAt x)

/-- R69, R70, R261, R262, R280, R281: PSH and CAL change no register but the PC and the SP, and no word of
memory but the one below the SP; POP and RET change no memory, and no register but the PC, the SP and POP's
destination. -/
def Obligations.StackFrame : Prop :=
  ∀ (s t : State) (a : Operand), s.hasReserved → s.sp.toNat < 2 ^ s.cfg.w.bits →
    (exec (.psh a) s = .next t ∨ exec (.cal a) s = .next t →
      SameSetup s t ∧ SameEnvironment s t ∧ SameRegistersExcept [0, 1] s t ∧
      (t.status ≠ .faulted → SameRecords s t) ∧
      ∀ x, x ≠ s.sp.toNat - 1 → t.wordAt x = s.wordAt x) ∧
    (exec (.pop a) s = .next t →
      SameSetup s t ∧ SameEnvironment s t ∧ SameMemory s t ∧
      SameRegistersExcept (0 :: 1 :: writtenBy a) s t ∧ (t.status ≠ .faulted → SameRecords s t)) ∧
    (exec .ret s = .next t →
      SameSetup s t ∧ SameEnvironment s t ∧ SameMemory s t ∧ SameRegistersExcept [0, 1] s t ∧
      (t.status ≠ .faulted → SameRecords s t))

/-- R294, R295, R298: IN and OUT change no word of memory; IN changes no register but the PC and its
destination, and no output history; OUT changes no register but the PC, and neither the input script nor
the draw counter. -/
def Obligations.InOutFrame : Prop :=
  ∀ (s t : State) (a b : Operand), s.hasReserved →
    (exec (.inPort a b) s = .next t →
      SameSetup s t ∧ SameMemory s t ∧ SameRegistersExcept (0 :: writtenBy a) s t ∧
      t.output = s.output ∧ (t.status ≠ .faulted → t.fault = s.fault) ∧
      (t.status = .ready → t.pending = s.pending) ∧
      (t.status = .awaitingInput →
        SameRegistersExcept [0] s t ∧ t.diagnostics = s.diagnostics)) ∧
    (exec (.outPort a b) s = .next t →
      SameSetup s t ∧ SameMemory s t ∧ SameRegistersExcept [0] s t ∧ t.oracle = s.oracle ∧
      (t.status ≠ .faulted → t.pending = s.pending ∧ t.fault = s.fault))

/-! Load and reset (70_reset_and_hazards.md). -/

/-- R350, R50: at power-on the machine is UNLOADED, LOAD_ERR is 0, the registry is empty, the read accessors
return empty sequences, and a step is refused. -/
def Obligations.PowerOnIsUnloaded : Prop :=
  State.reset.status = .unloaded ∧ State.reset.loadErr = .none ∧
  State.reset.registry = { inMap := [], outMap := [], resetList := [] } ∧
  State.reset.readRegisters = [] ∧ State.reset.readMemory = [] ∧
  step State.reset = .refused (.callRefused .unloaded)

/-- R351, R352, R353, R354: a failing load reports the first failing check, in the order presence, RUN mode,
BITS range, register count, memory size, instructions, and leaves the machine UNLOADED. The limit is the
largest word of the width that BITS selects (R6). -/
def Obligations.LoadReportsFirstError : Prop :=
  ∀ (p : Program) (s : State),
    ((p.headers.bits = none ∨ p.headers.minheap = none ∨ p.headers.minstack = none ∨
        p.headers.minreg = none ∨ p.headers.run = none) →
      (hostLoad p s).loadErr = .missingHeader ∧ (hostLoad p s).status = .unloaded) ∧
    (∀ b h k r mode, p.headers.bits = some b → p.headers.minheap = some h →
      p.headers.minstack = some k → p.headers.minreg = some r → p.headers.run = some mode →
      (mode ≠ .rom →
        (hostLoad p s).loadErr = .unsupportedRunMode ∧ (hostLoad p s).status = .unloaded) ∧
      (mode = .rom → (b < 1 ∨ 32 < b) →
        (hostLoad p s).loadErr = .bitsOutOfRange ∧ (hostLoad p s).status = .unloaded) ∧
      (mode = .rom → 1 ≤ b → b ≤ 32 → largestWord b < r + 2 →
        (hostLoad p s).loadErr = .registerCountTooLarge ∧ (hostLoad p s).status = .unloaded) ∧
      (mode = .rom → 1 ≤ b → b ≤ 32 → r + 2 ≤ largestWord b →
        largestWord b < p.static.length + h + k →
        (hostLoad p s).loadErr = .memorySizeTooLarge ∧ (hostLoad p s).status = .unloaded) ∧
      (mode = .rom → 1 ≤ b → b ≤ 32 → r + 2 ≤ largestWord b →
        p.static.length + h + k ≤ largestWord b →
        (∃ item ∈ p.code, codeItemOk (largestWord b) (r + 2) item = false) →
        (hostLoad p s).loadErr = .malformedInstruction ∧ (hostLoad p s).status = .unloaded) ∧
      (mode = .rom → 1 ≤ b → b ≤ 32 → r + 2 ≤ largestWord b →
        p.static.length + h + k ≤ largestWord b →
        (∀ item ∈ p.code, codeItemOk (largestWord b) (r + 2) item = true) →
        (hostLoad p s).loadErr = .none ∧ (hostLoad p s).status = .ready))

/-- R355, R40, R6, R90, R91: a successful load sets every configuration register from the headers, the PC to
0, the SP to MSIZE, the other registers to 0, the memory to the truncated static data and 0, clears PENDING
and the fault registers, and leaves the registry. A packed instruction is stored as itself, and one given as
opcode, kinds and values as a record of that opcode which, where the opcode is known, decodes to as many
operands, of those kinds and values. Two clauses are the model's and not the spec's: that an instruction
given in the second form is packed (log entry 15), and that the histories are left alone (log entry 6, a
DESIGN CHOICE). -/
def Obligations.LoadInitialisesMachine : Prop :=
  ∀ (p : Program) (s : State), (hostLoad p s).status = .ready →
    ∃ b h k r, p.headers.bits = some b ∧ p.headers.minheap = some h ∧ p.headers.minstack = some k ∧
      p.headers.minreg = some r ∧ p.headers.run = some .rom ∧
      1 ≤ b ∧ b ≤ 32 ∧ (b ≤ 8 → (hostLoad p s).cfg.w = .w8) ∧
      (9 ≤ b → b ≤ 16 → (hostLoad p s).cfg.w = .w16) ∧ (17 ≤ b → (hostLoad p s).cfg.w = .w32) ∧
      (hostLoad p s).cfg.w = widthFor b ∧ (hostLoad p s).cfg.Coherent ∧
      (hostLoad p s).cfg.nreg.toNat = r + 2 ∧ (hostLoad p s).cfg.heap.toNat = h ∧
      (hostLoad p s).cfg.stack.toNat = k ∧ (hostLoad p s).cfg.slen.toNat = p.static.length ∧
      (hostLoad p s).cfg.plen = p.code.length ∧
      (hostLoad p s).prog.code = p.code.map CodeItem.pack ∧
      (∀ (x : Nat) (item : CodeItem), p.code[x]? = some item →
        ∃ w, (hostLoad p s).prog.code[x]? = some w ∧ (∀ v, item = .packed v → w = v) ∧
          (∀ opc ks vs, item = .fields opc ks vs → fieldOpc w = opc.toNat ∧
            ∀ n, operandCount opc.toNat = some n →
              (∃ i, decode w = .ok i ∧ i.operands.length = n) ∧
              ∀ (y : Nat) (kind : BitVec 2) (value : Nat), ks[y]? = some kind → vs[y]? = some value →
                (fieldKind w y).code = kind ∧
                (kind = 0 ∨ kind = 1 ∨ value < 2 ^ 32 → (fieldValue w y).toNat = value))) ∧
      (hostLoad p s).prog.headers = p.headers ∧ (hostLoad p s).prog.static = p.static ∧
      (hostLoad p s).regs.length = r + 2 ∧ (hostLoad p s).pc = 0 ∧
      (hostLoad p s).sp.toNat = p.static.length + h + k ∧
      (∀ i, 2 ≤ i → (hostLoad p s).regAt i = 0) ∧
      (∀ a, (hostLoad p s).wordAt a =
        match p.static[a]? with
        | some x => trunc (widthFor b) x
        | none => 0) ∧
      (hostLoad p s).pending.valid = false ∧ (hostLoad p s).fault = FaultRecord.none ∧
      (hostLoad p s).loadErr = .none ∧ (hostLoad p s).registry = s.registry ∧
      (hostLoad p s).output = s.output ∧ (hostLoad p s).diagnostics = s.diagnostics

/-- R356: a failed load discards the previous machine, runnable or not: no configuration, program, register,
memory word, pending target or fault is left, and the registry is unchanged. That "no value" is kept as 0 and
as the empty file, memory and store is the model's choice (log entry 2). -/
def Obligations.FailedLoadDiscardsMachine : Prop :=
  ∀ (p : Program) (s : State), (hostLoad p s).status = .unloaded →
    (hostLoad p s).loadErr ≠ .none ∧ (hostLoad p s).cfg = Cfg.none ∧
    (hostLoad p s).prog = ProgramStore.empty ∧ (hostLoad p s).readRegisters = [] ∧
    (hostLoad p s).readMemory = [] ∧ (hostLoad p s).pending.valid = false ∧
    (hostLoad p s).fault = FaultRecord.none ∧ (hostLoad p s).registry = s.registry ∧
    step (hostLoad p s) = .refused (.callRefused .unloaded)

/-- R357, R299: reset() of a loaded machine restores the registers, memory, STATUS, PENDING.valid and fault
registers that the load of its program gave, keeps the configuration, program, registry and LOAD_ERR, and
calls every reset hook once, in order; of an UNLOADED machine it only calls the hooks. -/
def Obligations.ResetRestoresLoadedState : Prop :=
  ∀ (p : Program) (s t : State),
    (t.status ≠ .unloaded → (hostLoad p s).status = .ready → t.cfg = (hostLoad p s).cfg →
      t.prog = (hostLoad p s).prog →
      (hostReset t).regs = (hostLoad p s).regs ∧ (hostReset t).mem = (hostLoad p s).mem ∧
      (hostReset t).status = .ready ∧ (hostReset t).pending.valid = false ∧
      (hostReset t).fault = FaultRecord.none) ∧
    SameSetup t (hostReset t) ∧
    (hostReset t).output =
      t.output ++ (List.range t.registry.resetList.length).map OutputEvent.reset ∧
    (t.status = .unloaded → { hostReset t with output := t.output } = t)

/-! Invariants. -/

/-- R50, R350: the power-on state meets the machine's invariant. Its values other than STATUS, LOAD_ERR and
the registry are the model's choice (log entry 1). -/
def Obligations.PowerOnMeetsInvariant : Prop := State.reset.Inv

/-- R30, R43, R44, R60, R66, R98: every step keeps the machine's invariant, from every state that meets
it. -/
def Obligations.StepKeepsInvariant : Prop :=
  ∀ s t : State, s.Inv → step s = .next t → t.Inv

/-- R291, R297, R350 to R357: every load, successful or not, leaves a machine that meets the invariant,
whatever the machine was; reset(), register_device and finish_pending_input keep the invariant, and
finish_pending_input always proceeds. What the invariant says of a failed load, that "no value" is kept as 0
and as empty, is the model's choice (log entry 2). -/
def Obligations.HostCallsKeepInvariant : Prop :=
  (∀ (p : Program) (s : State), (hostLoad p s).Inv) ∧
  (∀ s : State, s.Inv → (hostReset s).Inv) ∧
  (∀ (d : Device) (s : State), s.Inv → (registerDevice d s).Inv) ∧
  (∀ (v : Nat) (s : State), s.Inv → ∃ t, finishPendingInput v s = .next t ∧ t.Inv)

/-- R40, R45, R46, R48: no step changes the configuration registers, LOAD_ERR, the port registry or the
program store, from any state. -/
def Obligations.StepKeepsSetup : Prop := ∀ s t : State, step s = .next t → SameSetup s t

/-- R328, R331, N6: a program cannot observe PENDING, the fault registers, LOAD_ERR or the histories: two
machines that differ in those alone make the same step on registers, memory, STATUS and the input script, and
both append the same output events and the same diagnostics. -/
def Obligations.HostRegistersNotObservable : Prop :=
  ∀ s1 s2 t1 : State, s1.cfg = s2.cfg → s1.status = s2.status → s1.regs = s2.regs → s1.mem = s2.mem →
    s1.prog = s2.prog → s1.registry = s2.registry → s1.oracle = s2.oracle → step s1 = .next t1 →
    ∃ t2, step s2 = .next t2 ∧ t2.status = t1.status ∧ t2.regs = t1.regs ∧ t2.mem = t1.mem ∧
      t2.oracle = t1.oracle ∧
      (∃ es, t1.output = s1.output ++ es ∧ t2.output = s2.output ++ es) ∧
      (∃ ds, t1.diagnostics = s1.diagnostics ++ ds ∧ t2.diagnostics = s2.diagnostics ++ ds)
end

