-- ==== Sys2Proof/Laws/Encoding.lean ====
section
/-! SUPPORT. The fields of a packed record: what each field extraction reads from a packed word (R95,
R96). -/

namespace Sys2Proof

@[simp] theorem Kind.ofCode_code (k : Kind) : Kind.ofCode k.code = k := by cases k <;> rfl

@[simp] theorem Kind.code_ofCode (c : BitVec 2) : (Kind.ofCode c).code = c := by
  revert c; decide

variable (opc : BitVec 8) (o0 o1 o2 : Operand)

theorem extract_opc_packSlots : (packSlots opc o0 o1 o2).extractLsb' 0 8 = opc := by
  unfold packSlots; ext i hi; simp; grind (ematch := 12) [- BitVec.append_assoc, - BitVec.append_assoc']

theorem extract_kind0_packSlots : (packSlots opc o0 o1 o2).extractLsb' 8 2 = o0.kind.code := by
  unfold packSlots; ext i hi; simp; grind (ematch := 12) [- BitVec.append_assoc, - BitVec.append_assoc']

theorem extract_kind1_packSlots : (packSlots opc o0 o1 o2).extractLsb' 10 2 = o1.kind.code := by
  unfold packSlots; ext i hi; simp; grind (ematch := 12) [- BitVec.append_assoc, - BitVec.append_assoc']

theorem extract_kind2_packSlots : (packSlots opc o0 o1 o2).extractLsb' 12 2 = o2.kind.code := by
  unfold packSlots; ext i hi; simp; grind (ematch := 12) [- BitVec.append_assoc, - BitVec.append_assoc']

theorem extract_rsv_packSlots : (packSlots opc o0 o1 o2).extractLsb' 14 2 = 0 := by
  unfold packSlots; ext i hi; simp; grind (ematch := 12) [- BitVec.append_assoc, - BitVec.append_assoc']

theorem extract_value0_packSlots : (packSlots opc o0 o1 o2).extractLsb' 16 32 = o0.value := by
  unfold packSlots; ext i hi; simp; grind (ematch := 12) [- BitVec.append_assoc, - BitVec.append_assoc']

theorem extract_value1_packSlots : (packSlots opc o0 o1 o2).extractLsb' 48 32 = o1.value := by
  unfold packSlots; ext i hi; simp; grind (ematch := 12) [- BitVec.append_assoc, - BitVec.append_assoc']

theorem extract_value2_packSlots : (packSlots opc o0 o1 o2).extractLsb' 80 32 = o2.value := by
  unfold packSlots; ext i hi; simp; grind (ematch := 12) [- BitVec.append_assoc, - BitVec.append_assoc']

theorem fieldOpc_packSlots : fieldOpc (packSlots opc o0 o1 o2) = opc.toNat := by
  rw [fieldOpc, extract_opc_packSlots]

theorem fieldRsv_packSlots : fieldRsv (packSlots opc o0 o1 o2) = 0 := extract_rsv_packSlots ..

theorem operandAt_zero_packSlots : operandAt (packSlots opc o0 o1 o2) 0 = o0 := by
  simp [operandAt, fieldKind, fieldValue, extract_kind0_packSlots, extract_value0_packSlots]

theorem operandAt_one_packSlots : operandAt (packSlots opc o0 o1 o2) 1 = o1 := by
  simp [operandAt, fieldKind, fieldValue, extract_kind1_packSlots, extract_value1_packSlots]

theorem operandAt_two_packSlots : operandAt (packSlots opc o0 o1 o2) 2 = o2 := by
  simp [operandAt, fieldKind, fieldValue, extract_kind2_packSlots, extract_value2_packSlots]

/-- A record whose RSV is 0 is the packing of its own fields. -/
theorem packSlots_fields (w : PackedWord) (h : fieldRsv w = 0) :
    packSlots (w.extractLsb' 0 8) (operandAt w 0) (operandAt w 1) (operandAt w 2) = w := by
  simp only [packSlots, operandAt, fieldKind, fieldValue, Kind.code_ofCode]
  have h' : w.extractLsb' 14 2 = 0 := h
  rw [← h']; ext i hi; simp; grind

/-- The check accepts an instruction exactly when RSV and the unused slots are 0. -/
theorem checked_eq_ok (w : PackedWord) (unused : List Nat) (i j : Instr) :
    checked w unused i = .ok j ↔ fieldRsv w = 0 ∧ unused.all (slotUnused w) = true ∧ i = j := by
  unfold checked; split
  · simp_all
  · split <;> simp_all

/-- Format F3 reads back the three operands that were packed. -/
theorem form3_packSlots (mk : Operand → Operand → Operand → Instr) :
    form3 (packSlots opc o0 o1 o2) mk = .ok (mk o0 o1 o2) := by
  simp [form3, checked, fieldRsv_packSlots, operandAt_zero_packSlots, operandAt_one_packSlots,
    operandAt_two_packSlots]

/-- Format F2 reads back its two operands from a record whose slot 2 is empty. -/
theorem form2_packSlots (mk : Operand → Operand → Instr) :
    form2 (packSlots opc o0 o1 emptySlot) mk = .ok (mk o0 o1) := by
  simp [form2, checked, slotUnused, fieldRsv_packSlots, operandAt_zero_packSlots,
    operandAt_one_packSlots, operandAt_two_packSlots, emptySlot]

/-- Format F1 reads back its operand from a record whose slots 1 and 2 are empty. -/
theorem form1_packSlots (mk : Operand → Instr) :
    form1 (packSlots opc o0 emptySlot emptySlot) mk = .ok (mk o0) := by
  simp [form1, checked, slotUnused, fieldRsv_packSlots, operandAt_zero_packSlots,
    operandAt_one_packSlots, operandAt_two_packSlots, emptySlot]

/-- Format F0 accepts a record whose slots are all empty. -/
theorem form0_packSlots (i : Instr) :
    form0 (packSlots opc emptySlot emptySlot emptySlot) i = .ok i := by
  simp [form0, checked, slotUnused, fieldRsv_packSlots, operandAt_zero_packSlots,
    operandAt_one_packSlots, operandAt_two_packSlots, emptySlot]

end Sys2Proof
end

