-- ==== Sys2Proof/Laws/Memory.lean ====
section
/-! SUPPORT. The laws of the data memory: read after write, and the canonical form kept by every memory
operation. -/

namespace Sys2Proof.Machine

@[simp] theorem Memory.read_nil (a : Nat) : Memory.read a [] = Memory.unlisted := rfl

/-- An address below every listed one is unlisted. -/
theorem Memory.read_of_below (a : Nat) (m : Memory) (h : ∀ c ∈ m, a < c.1) :
    m.read a = Memory.unlisted := by
  induction m with
  | nil => rfl
  | cons c rest ih =>
    have hc : a ≠ c.1 := Nat.ne_of_lt (h c (by simp))
    simp only [Memory.read, hc, if_false]
    exact ih fun d hd => h d (List.mem_cons_of_mem _ hd)

/-- A write leaves every other address alone, whatever the list. -/
theorem Memory.read_write_other (a b : Nat) (v : Word) (m : Memory) (h : b ≠ a) :
    (m.write a v).read b = m.read b := by
  induction m with
  | nil => unfold Memory.write; split <;> simp [Memory.read, h]
  | cons c rest ih =>
    obtain ⟨k, u⟩ := c
    unfold Memory.write
    split
    · split <;> simp [Memory.read, h]
    · split
      · rename_i hk
        subst hk
        split <;> simp [Memory.read, h]
      · simp only [Memory.read, ih]

/-- A read after a write to the same address gives the value written. -/
theorem Memory.read_write_same (a : Nat) (v : Word) (m : Memory) (hm : m.wf) :
    (m.write a v).read a = v := by
  induction m with
  | nil => unfold Memory.write; split <;> simp_all [Memory.read]
  | cons c rest ih =>
    obtain ⟨k, u⟩ := c
    obtain ⟨hs, hz⟩ := hm
    rw [List.pairwise_cons] at hs
    unfold Memory.write
    split
    · rename_i hlt
      split
      · rename_i hv
        rw [hv]
        refine Memory.read_of_below a _ fun d hd => ?_
        rcases List.mem_cons.mp hd with rfl | hd
        · exact hlt
        · exact Nat.lt_trans hlt (hs.1 d hd)
      · simp [Memory.read]
    · split
      · rename_i hk
        subst hk
        split
        · rename_i hv
          rw [hv]
          exact Memory.read_of_below a _ fun d hd => hs.1 d hd
        · simp [Memory.read]
      · rename_i hk
        simp only [Memory.read, hk, if_false]
        exact ih ⟨hs.2, fun d hd => hz d (List.mem_cons_of_mem _ hd)⟩

/-- Every entry after a write is an old entry or the written one, and the written one is not 0. -/
theorem Memory.mem_write (a : Nat) (v : Word) (m : Memory) (c : Nat × Word) (h : c ∈ m.write a v) :
    c ∈ m ∨ (c = (a, v) ∧ v ≠ Memory.unlisted) := by
  induction m with
  | nil => unfold Memory.write at h; split at h <;> simp_all
  | cons d rest ih =>
    obtain ⟨k, u⟩ := d
    unfold Memory.write at h
    split at h
    · split at h <;> simp_all
      tauto
    · split at h
      · split at h <;> simp_all
        tauto
      · rcases List.mem_cons.mp h with rfl | h
        · simp
        · rcases ih h with h | h
          · simp [h]
          · exact .inr h

/-- A write keeps the canonical form. -/
theorem Memory.write_wf (a : Nat) (v : Word) (m : Memory) (hm : m.wf) : (m.write a v).wf := by
  refine ⟨?_, fun c hc => ?_⟩
  · induction m with
    | nil => unfold Memory.write; split <;> simp
    | cons d rest ih =>
      obtain ⟨k, u⟩ := d
      obtain ⟨hs, hz⟩ := hm
      have hs' := List.pairwise_cons.mp hs
      have ih := ih ⟨hs'.2, fun d hd => hz d (List.mem_cons_of_mem _ hd)⟩
      unfold Memory.write
      split
      · rename_i hlt
        split
        · exact hs
        · refine List.pairwise_cons.mpr ⟨fun d hd => ?_, hs⟩
          rcases List.mem_cons.mp hd with rfl | hd
          · exact hlt
          · exact Nat.lt_trans hlt (hs'.1 d hd)
      · split
        · rename_i hk
          subst hk
          split
          · exact hs'.2
          · exact List.pairwise_cons.mpr ⟨fun d hd => hs'.1 d hd, hs'.2⟩
        · rename_i h1 h2
          refine List.pairwise_cons.mpr ⟨fun d hd => ?_, ih⟩
          rcases Memory.mem_write a v rest d hd with hd | ⟨rfl, _⟩
          · exact hs'.1 d hd
          · simp only; omega
  · rcases Memory.mem_write a v m c hc with h | ⟨rfl, h⟩
    · exact hm.2 c h
    · exact h

/-- The entries of a preloaded memory lie in the static data's range, are truncated static words and not
0. -/
theorem Memory.mem_preload (w : Width) (xs : List Nat) (i : Nat) (c : Nat × Word)
    (h : c ∈ Memory.preload w i xs) :
    i ≤ c.1 ∧ c.1 < i + xs.length ∧ c.2 ≠ Memory.unlisted ∧ ∃ x ∈ xs, c.2 = trunc w x := by
  induction xs generalizing i with
  | nil => simp [Memory.preload] at h
  | cons x rest ih =>
    unfold Memory.preload at h
    split at h
    · obtain ⟨h1, h2, h3, y, hy, h4⟩ := ih (i + 1) h
      exact ⟨by omega, by simp; omega, h3, y, List.mem_cons_of_mem _ hy, h4⟩
    · rename_i hx
      rcases List.mem_cons.mp h with rfl | h
      · exact ⟨by simp, by simp, hx, x, by simp, rfl⟩
      · obtain ⟨h1, h2, h3, y, hy, h4⟩ := ih (i + 1) h
        exact ⟨by omega, by simp; omega, h3, y, List.mem_cons_of_mem _ hy, h4⟩

/-- A preloaded memory is in canonical form. -/
theorem Memory.preload_wf (w : Width) (xs : List Nat) (i : Nat) : (Memory.preload w i xs).wf := by
  refine ⟨?_, fun c hc => (Memory.mem_preload w xs i c hc).2.2.1⟩
  induction xs generalizing i with
  | nil => simp [Memory.preload]
  | cons x rest ih =>
    unfold Memory.preload
    split
    · exact ih _
    · refine List.pairwise_cons.mpr ⟨fun d hd => ?_, ih _⟩
      have := (Memory.mem_preload w rest (i + 1) d hd).1
      simp only; omega

/-- A word of a preloaded memory: the truncated static word there, or 0 past the static data. -/
theorem Memory.read_preload (w : Width) (xs : List Nat) (i j : Nat) :
    (Memory.preload w i xs).read (i + j) =
      match xs[j]? with
      | some x => trunc w x
      | none => Memory.unlisted := by
  induction xs generalizing i j with
  | nil => simp [Memory.preload]
  | cons x rest ih =>
    unfold Memory.preload
    cases j with
    | zero =>
      split
      · rename_i hx
        rw [Memory.read_of_below]
        · simp [hx]
        · intro c hc
          have := (Memory.mem_preload w rest (i + 1) c hc).1
          omega
      · simp [Memory.read]
    | succ j =>
      have h := ih (i + 1) j
      have e : i + 1 + j = i + (j + 1) := by omega
      rw [e] at h
      split
      · simpa using h
      · have hne : i + (j + 1) ≠ i := by omega
        simpa [Memory.read, hne] using h

/-- The memory at power-on is in canonical form. -/
theorem State.reset_mem_wf : State.reset.mem.wf := by decide

/-- The memory a load or a reset() gives is in canonical form. -/
theorem reinitialise_mem_wf (s : State) : (reinitialise s).mem.wf := Memory.preload_wf _ _ _

/-- A store that is not out of bounds keeps the canonical form. -/
theorem memWrite_mem_wf (s t : State) (a : Nat) (v : Word) (h : s.mem.wf) (hw : memWrite a v s = .ok t) :
    t.mem.wf := by
  unfold memWrite at hw
  split at hw
  · cases hw
  · cases hw; exact Memory.write_wf _ _ _ h

end Sys2Proof.Machine
end

