-- ==== Sys2Proof/Laws/State.lean ====
section
/-! SUPPORT. Each field of the state after each named update. -/

namespace Sys2Proof.Machine

variable (s : State)

@[simp] theorem State.withRegs_cfg (x : List Word) : (s.withRegs x).cfg = s.cfg := rfl
@[simp] theorem State.withRegs_status (x : List Word) : (s.withRegs x).status = s.status := rfl
@[simp] theorem State.withRegs_regs (x : List Word) : (s.withRegs x).regs = x := rfl
@[simp] theorem State.withRegs_mem (x : List Word) : (s.withRegs x).mem = s.mem := rfl
@[simp] theorem State.withRegs_pending (x : List Word) : (s.withRegs x).pending = s.pending := rfl
@[simp] theorem State.withRegs_fault (x : List Word) : (s.withRegs x).fault = s.fault := rfl
@[simp] theorem State.withRegs_loadErr (x : List Word) : (s.withRegs x).loadErr = s.loadErr := rfl
@[simp] theorem State.withRegs_registry (x : List Word) : (s.withRegs x).registry = s.registry := rfl
@[simp] theorem State.withRegs_prog (x : List Word) : (s.withRegs x).prog = s.prog := rfl
@[simp] theorem State.withRegs_oracle (x : List Word) : (s.withRegs x).oracle = s.oracle := rfl
@[simp] theorem State.withRegs_output (x : List Word) : (s.withRegs x).output = s.output := rfl
@[simp] theorem State.withRegs_diagnostics (x : List Word) : (s.withRegs x).diagnostics = s.diagnostics := rfl

@[simp] theorem State.withMem_cfg (x : Memory) : (s.withMem x).cfg = s.cfg := rfl
@[simp] theorem State.withMem_status (x : Memory) : (s.withMem x).status = s.status := rfl
@[simp] theorem State.withMem_regs (x : Memory) : (s.withMem x).regs = s.regs := rfl
@[simp] theorem State.withMem_mem (x : Memory) : (s.withMem x).mem = x := rfl
@[simp] theorem State.withMem_pending (x : Memory) : (s.withMem x).pending = s.pending := rfl
@[simp] theorem State.withMem_fault (x : Memory) : (s.withMem x).fault = s.fault := rfl
@[simp] theorem State.withMem_loadErr (x : Memory) : (s.withMem x).loadErr = s.loadErr := rfl
@[simp] theorem State.withMem_registry (x : Memory) : (s.withMem x).registry = s.registry := rfl
@[simp] theorem State.withMem_prog (x : Memory) : (s.withMem x).prog = s.prog := rfl
@[simp] theorem State.withMem_oracle (x : Memory) : (s.withMem x).oracle = s.oracle := rfl
@[simp] theorem State.withMem_output (x : Memory) : (s.withMem x).output = s.output := rfl
@[simp] theorem State.withMem_diagnostics (x : Memory) : (s.withMem x).diagnostics = s.diagnostics := rfl

@[simp] theorem State.withStatus_cfg (x : Status) : (s.withStatus x).cfg = s.cfg := rfl
@[simp] theorem State.withStatus_status (x : Status) : (s.withStatus x).status = x := rfl
@[simp] theorem State.withStatus_regs (x : Status) : (s.withStatus x).regs = s.regs := rfl
@[simp] theorem State.withStatus_mem (x : Status) : (s.withStatus x).mem = s.mem := rfl
@[simp] theorem State.withStatus_pending (x : Status) : (s.withStatus x).pending = s.pending := rfl
@[simp] theorem State.withStatus_fault (x : Status) : (s.withStatus x).fault = s.fault := rfl
@[simp] theorem State.withStatus_loadErr (x : Status) : (s.withStatus x).loadErr = s.loadErr := rfl
@[simp] theorem State.withStatus_registry (x : Status) : (s.withStatus x).registry = s.registry := rfl
@[simp] theorem State.withStatus_prog (x : Status) : (s.withStatus x).prog = s.prog := rfl
@[simp] theorem State.withStatus_oracle (x : Status) : (s.withStatus x).oracle = s.oracle := rfl
@[simp] theorem State.withStatus_output (x : Status) : (s.withStatus x).output = s.output := rfl
@[simp] theorem State.withStatus_diagnostics (x : Status) : (s.withStatus x).diagnostics = s.diagnostics := rfl

@[simp] theorem State.withPending_cfg (x : Pending) : (s.withPending x).cfg = s.cfg := rfl
@[simp] theorem State.withPending_status (x : Pending) : (s.withPending x).status = s.status := rfl
@[simp] theorem State.withPending_regs (x : Pending) : (s.withPending x).regs = s.regs := rfl
@[simp] theorem State.withPending_mem (x : Pending) : (s.withPending x).mem = s.mem := rfl
@[simp] theorem State.withPending_pending (x : Pending) : (s.withPending x).pending = x := rfl
@[simp] theorem State.withPending_fault (x : Pending) : (s.withPending x).fault = s.fault := rfl
@[simp] theorem State.withPending_loadErr (x : Pending) : (s.withPending x).loadErr = s.loadErr := rfl
@[simp] theorem State.withPending_registry (x : Pending) : (s.withPending x).registry = s.registry := rfl
@[simp] theorem State.withPending_prog (x : Pending) : (s.withPending x).prog = s.prog := rfl
@[simp] theorem State.withPending_oracle (x : Pending) : (s.withPending x).oracle = s.oracle := rfl
@[simp] theorem State.withPending_output (x : Pending) : (s.withPending x).output = s.output := rfl
@[simp] theorem State.withPending_diagnostics (x : Pending) : (s.withPending x).diagnostics = s.diagnostics := rfl

@[simp] theorem State.withFault_cfg (x : FaultRecord) : (s.withFault x).cfg = s.cfg := rfl
@[simp] theorem State.withFault_status (x : FaultRecord) : (s.withFault x).status = s.status := rfl
@[simp] theorem State.withFault_regs (x : FaultRecord) : (s.withFault x).regs = s.regs := rfl
@[simp] theorem State.withFault_mem (x : FaultRecord) : (s.withFault x).mem = s.mem := rfl
@[simp] theorem State.withFault_pending (x : FaultRecord) : (s.withFault x).pending = s.pending := rfl
@[simp] theorem State.withFault_fault (x : FaultRecord) : (s.withFault x).fault = x := rfl
@[simp] theorem State.withFault_loadErr (x : FaultRecord) : (s.withFault x).loadErr = s.loadErr := rfl
@[simp] theorem State.withFault_registry (x : FaultRecord) : (s.withFault x).registry = s.registry := rfl
@[simp] theorem State.withFault_prog (x : FaultRecord) : (s.withFault x).prog = s.prog := rfl
@[simp] theorem State.withFault_oracle (x : FaultRecord) : (s.withFault x).oracle = s.oracle := rfl
@[simp] theorem State.withFault_output (x : FaultRecord) : (s.withFault x).output = s.output := rfl
@[simp] theorem State.withFault_diagnostics (x : FaultRecord) : (s.withFault x).diagnostics = s.diagnostics := rfl

@[simp] theorem State.withOracle_cfg (x : Oracle) : (s.withOracle x).cfg = s.cfg := rfl
@[simp] theorem State.withOracle_status (x : Oracle) : (s.withOracle x).status = s.status := rfl
@[simp] theorem State.withOracle_regs (x : Oracle) : (s.withOracle x).regs = s.regs := rfl
@[simp] theorem State.withOracle_mem (x : Oracle) : (s.withOracle x).mem = s.mem := rfl
@[simp] theorem State.withOracle_pending (x : Oracle) : (s.withOracle x).pending = s.pending := rfl
@[simp] theorem State.withOracle_fault (x : Oracle) : (s.withOracle x).fault = s.fault := rfl
@[simp] theorem State.withOracle_loadErr (x : Oracle) : (s.withOracle x).loadErr = s.loadErr := rfl
@[simp] theorem State.withOracle_registry (x : Oracle) : (s.withOracle x).registry = s.registry := rfl
@[simp] theorem State.withOracle_prog (x : Oracle) : (s.withOracle x).prog = s.prog := rfl
@[simp] theorem State.withOracle_oracle (x : Oracle) : (s.withOracle x).oracle = x := rfl
@[simp] theorem State.withOracle_output (x : Oracle) : (s.withOracle x).output = s.output := rfl
@[simp] theorem State.withOracle_diagnostics (x : Oracle) : (s.withOracle x).diagnostics = s.diagnostics := rfl

@[simp] theorem State.emit_cfg (x : OutputEvent) : (s.emit x).cfg = s.cfg := rfl
@[simp] theorem State.emit_status (x : OutputEvent) : (s.emit x).status = s.status := rfl
@[simp] theorem State.emit_regs (x : OutputEvent) : (s.emit x).regs = s.regs := rfl
@[simp] theorem State.emit_mem (x : OutputEvent) : (s.emit x).mem = s.mem := rfl
@[simp] theorem State.emit_pending (x : OutputEvent) : (s.emit x).pending = s.pending := rfl
@[simp] theorem State.emit_fault (x : OutputEvent) : (s.emit x).fault = s.fault := rfl
@[simp] theorem State.emit_loadErr (x : OutputEvent) : (s.emit x).loadErr = s.loadErr := rfl
@[simp] theorem State.emit_registry (x : OutputEvent) : (s.emit x).registry = s.registry := rfl
@[simp] theorem State.emit_prog (x : OutputEvent) : (s.emit x).prog = s.prog := rfl
@[simp] theorem State.emit_oracle (x : OutputEvent) : (s.emit x).oracle = s.oracle := rfl
@[simp] theorem State.emit_output (x : OutputEvent) : (s.emit x).output = s.output ++ [x] := rfl
@[simp] theorem State.emit_diagnostics (x : OutputEvent) : (s.emit x).diagnostics = s.diagnostics := rfl

@[simp] theorem State.report_cfg (x : DiagnosticEvent) : (s.report x).cfg = s.cfg := rfl
@[simp] theorem State.report_status (x : DiagnosticEvent) : (s.report x).status = s.status := rfl
@[simp] theorem State.report_regs (x : DiagnosticEvent) : (s.report x).regs = s.regs := rfl
@[simp] theorem State.report_mem (x : DiagnosticEvent) : (s.report x).mem = s.mem := rfl
@[simp] theorem State.report_pending (x : DiagnosticEvent) : (s.report x).pending = s.pending := rfl
@[simp] theorem State.report_fault (x : DiagnosticEvent) : (s.report x).fault = s.fault := rfl
@[simp] theorem State.report_loadErr (x : DiagnosticEvent) : (s.report x).loadErr = s.loadErr := rfl
@[simp] theorem State.report_registry (x : DiagnosticEvent) : (s.report x).registry = s.registry := rfl
@[simp] theorem State.report_prog (x : DiagnosticEvent) : (s.report x).prog = s.prog := rfl
@[simp] theorem State.report_oracle (x : DiagnosticEvent) : (s.report x).oracle = s.oracle := rfl
@[simp] theorem State.report_output (x : DiagnosticEvent) : (s.report x).output = s.output := rfl
@[simp] theorem State.report_diagnostics (x : DiagnosticEvent) : (s.report x).diagnostics = s.diagnostics ++ [x] := rfl

end Sys2Proof.Machine
end

