-- ==== Sys2Proof/Laws/Ops.lean ====
section
/-! SUPPORT. What each shared operation over registers, memory, the stack, the ports and the fault
registers can do, said once. -/

namespace Sys2Proof.Machine

/-! Width arithmetic. -/

theorem Width.bits_le (w : Width) : w.bits ≤ 32 := by cases w <;> decide

theorem Width.two_pow_bits_le (w : Width) : 2 ^ w.bits ≤ 2 ^ 32 :=
  Nat.pow_le_pow_right (by decide) w.bits_le

/-- A truncated value, as an integer, is the value mod 2^W. -/
theorem trunc_toNat (w : Width) (v : Int) : ((trunc w v).toNat : Int) = v % 2 ^ w.bits := by
  have hp : (0 : Int) < 2 ^ w.bits := by positivity
  have h0 := Int.emod_nonneg v hp.ne'
  have h1 := Int.emod_lt_of_pos v hp
  have h2 : ((2 ^ w.bits : Nat) : Int) ≤ ((2 ^ 32 : Nat) : Int) := by exact_mod_cast w.two_pow_bits_le
  push_cast at h2
  simp only [trunc, BitVec.toNat_ofNat]
  rw [Nat.mod_eq_of_lt (by omega)]
  omega

theorem trunc_lt (w : Width) (v : Int) : (trunc w v).toNat < 2 ^ w.bits := by
  have hp : (0 : Int) < 2 ^ w.bits := by positivity
  have h1 := Int.emod_lt_of_pos v hp
  rw [← trunc_toNat] at h1
  exact_mod_cast h1

/-- Truncation depends on the value mod 2^W only. -/
theorem trunc_congr (w : Width) (u v : Int) (h : u % 2 ^ w.bits = v % 2 ^ w.bits) :
    trunc w u = trunc w v := by rw [trunc, trunc, h]

@[simp] theorem trunc_trunc (w : Width) (v : Int) : trunc w (trunc w v).toNat = trunc w v :=
  trunc_congr w _ _ (by rw [trunc_toNat, Int.emod_emod_of_dvd _ (dvd_refl _)])

/-- A word of the width is its own truncation. -/
theorem trunc_word (w : Width) (v : Word) (h : v.toNat < 2 ^ w.bits) : trunc w v.toNat = v := by
  apply BitVec.eq_of_toNat_eq
  have h1 : (v.toNat : Int) < 2 ^ w.bits := by exact_mod_cast h
  have := trunc_toNat w v.toNat
  rw [Int.emod_eq_of_lt (by omega) h1] at this
  exact_mod_cast this

/-! Sequencing. -/

@[simp] theorem Res.bind_ok {α β : Type} (a : α) (k : α → Res β) : (Res.ok a).bind k = k a := rfl

@[simp] theorem Res.bind_raise {α β : Type} (c : FaultCode) (i : Nat) (s : State) (k : α → Res β) :
    (Res.raise c i s : Res α).bind k = .raise c i s := rfl

@[simp] theorem Res.bind_stuck {α β : Type} (f : Fault) (k : α → Res β) :
    (Res.stuck f : Res α).bind k = .stuck f := rfl

/-- A sequence gives a result exactly when both parts do. -/
theorem Res.bind_eq_ok {α β : Type} (r : Res α) (k : α → Res β) (b : β) :
    r.bind k = .ok b ↔ ∃ a, r = .ok a ∧ k a = .ok b := by cases r <;> simp

/-- A sequence raises a fault exactly when its first part does, or its second after the first. -/
theorem Res.bind_eq_raise {α β : Type} (r : Res α) (k : α → Res β) (c : FaultCode) (i : Nat) (t : State) :
    r.bind k = .raise c i t ↔ r = .raise c i t ∨ ∃ a, r = .ok a ∧ k a = .raise c i t := by
  cases r <;> simp

/-- A sequence is stuck exactly when its first part is, or its second after the first. -/
theorem Res.bind_eq_stuck {α β : Type} (r : Res α) (k : α → Res β) (f : Fault) :
    r.bind k = .stuck f ↔ r = .stuck f ∨ ∃ a, r = .ok a ∧ k a = .stuck f := by cases r <;> simp

@[simp] theorem finish_ok (cur : Word) (s : State) : finish cur (.ok s) = .next s := rfl

@[simp] theorem finish_raise (cur : Word) (c : FaultCode) (i : Nat) (s : State) :
    finish cur (.raise c i s) = .next (raiseFault c cur i s) := rfl

@[simp] theorem finish_stuck (cur : Word) (f : Fault) : finish cur (.stuck f) = .fault f := rfl

/-- A step answers a next state exactly when its body gives one or raises a fault, which is then taken. -/
theorem finish_eq_next (cur : Word) (r : Res State) (t : State) :
    finish cur r = .next t ↔
      r = .ok t ∨ ∃ c i s, r = .raise c i s ∧ t = raiseFault c cur i s := by
  cases r <;> simp [finish, eq_comm]

/-! Registers. -/

theorem readReg_eq (i : Nat) (s : State) :
    readReg i s = if i < s.regs.length then .ok (s.regAt i) else .stuck (.registerOutsideFile i) := by
  unfold readReg State.regAt
  split
  · rename_i v h
    obtain ⟨hi, rfl⟩ := List.getElem?_eq_some_iff.mp h
    simp [hi]
  · rename_i h
    rw [List.getElem?_eq_none_iff] at h
    rw [if_neg (by omega)]

theorem writeReg_eq (i : Nat) (v : Int) (s : State) :
    writeReg i v s =
      if i < s.regs.length then .ok (s.setReg i v) else .stuck (.registerOutsideFile i) := rfl

theorem readReg_ok (i : Nat) (s : State) (h : i < s.regs.length) : readReg i s = .ok (s.regAt i) := by
  rw [readReg_eq, if_pos h]

theorem writeReg_ok (i : Nat) (v : Int) (s : State) (h : i < s.regs.length) :
    writeReg i v s = .ok (s.setReg i v) := by rw [writeReg_eq, if_pos h]

variable (s : State) (i : Nat) (v : Int)

@[simp] theorem State.setReg_cfg : (s.setReg i v).cfg = s.cfg := rfl
@[simp] theorem State.setReg_status : (s.setReg i v).status = s.status := rfl
@[simp] theorem State.setReg_mem : (s.setReg i v).mem = s.mem := rfl
@[simp] theorem State.setReg_pending : (s.setReg i v).pending = s.pending := rfl
@[simp] theorem State.setReg_fault : (s.setReg i v).fault = s.fault := rfl
@[simp] theorem State.setReg_loadErr : (s.setReg i v).loadErr = s.loadErr := rfl
@[simp] theorem State.setReg_registry : (s.setReg i v).registry = s.registry := rfl
@[simp] theorem State.setReg_prog : (s.setReg i v).prog = s.prog := rfl
@[simp] theorem State.setReg_oracle : (s.setReg i v).oracle = s.oracle := rfl
@[simp] theorem State.setReg_output : (s.setReg i v).output = s.output := rfl
@[simp] theorem State.setReg_diagnostics : (s.setReg i v).diagnostics = s.diagnostics := rfl
@[simp] theorem State.setReg_msize : (s.setReg i v).msize = s.msize := rfl
@[simp] theorem State.setReg_hsb : (s.setReg i v).hsb = s.hsb := rfl
@[simp] theorem State.setReg_length : (s.setReg i v).regs.length = s.regs.length := by
  simp [State.setReg]

/-- A register written reads back the truncated value. -/
theorem State.regAt_setReg_same (h : i < s.regs.length) : (s.setReg i v).regAt i = trunc s.cfg.w v := by
  simp [State.regAt, State.setReg, h]

/-- A register write leaves every other register alone. -/
theorem State.regAt_setReg_other (j : Nat) (h : j ≠ i) : (s.setReg i v).regAt j = s.regAt j := by
  simp [State.regAt, State.setReg, List.getElem?_set_ne h.symm]

/-- Writing the truncated value writes the same register content. -/
@[simp] theorem State.setReg_trunc : s.setReg i (trunc s.cfg.w v).toNat = s.setReg i v := by
  simp [State.setReg]

/-- Every word of the register file after a write is an old one or the truncated value. -/
theorem State.mem_setReg_regs (u : Word) (h : u ∈ (s.setReg i v).regs) :
    u ∈ s.regs ∨ u = trunc s.cfg.w v := List.mem_or_eq_of_mem_set h

@[simp] theorem State.advanced_cfg : s.advanced.cfg = s.cfg := rfl
@[simp] theorem State.advanced_status : s.advanced.status = s.status := rfl
@[simp] theorem State.advanced_mem : s.advanced.mem = s.mem := rfl
@[simp] theorem State.advanced_pending : s.advanced.pending = s.pending := rfl
@[simp] theorem State.advanced_fault : s.advanced.fault = s.fault := rfl
@[simp] theorem State.advanced_loadErr : s.advanced.loadErr = s.loadErr := rfl
@[simp] theorem State.advanced_registry : s.advanced.registry = s.registry := rfl
@[simp] theorem State.advanced_prog : s.advanced.prog = s.prog := rfl
@[simp] theorem State.advanced_oracle : s.advanced.oracle = s.oracle := rfl
@[simp] theorem State.advanced_output : s.advanced.output = s.output := rfl
@[simp] theorem State.advanced_diagnostics : s.advanced.diagnostics = s.diagnostics := rfl
@[simp] theorem State.advanced_msize : s.advanced.msize = s.msize := rfl
@[simp] theorem State.advanced_hsb : s.advanced.hsb = s.hsb := rfl
@[simp] theorem State.advanced_length : s.advanced.regs.length = s.regs.length := State.setReg_length ..

/-! Memory accesses. -/

theorem memRead_ok (a : Nat) (h : a < s.msize) : memRead a s = .ok (s.wordAt a) := by
  rw [memRead, if_neg (by omega)]; rfl

theorem memRead_raise (a : Nat) (h : s.msize ≤ a) : memRead a s = .raise .loadOutOfBounds a s := by
  rw [memRead, if_pos h]

theorem memWrite_ok (a : Nat) (u : Word) (h : a < s.msize) : memWrite a u s = .ok (s.stored a u) := by
  rw [memWrite, if_neg (by omega)]; rfl

theorem memWrite_raise (a : Nat) (u : Word) (h : s.msize ≤ a) :
    memWrite a u s = .raise .storeOutOfBounds a s := by
  rw [memWrite, if_pos h]

@[simp] theorem State.stored_cfg (a : Nat) (u : Word) : (s.stored a u).cfg = s.cfg := rfl
@[simp] theorem State.stored_status (a : Nat) (u : Word) : (s.stored a u).status = s.status := rfl
@[simp] theorem State.stored_regs (a : Nat) (u : Word) : (s.stored a u).regs = s.regs := rfl
@[simp] theorem State.stored_pending (a : Nat) (u : Word) : (s.stored a u).pending = s.pending := rfl
@[simp] theorem State.stored_fault (a : Nat) (u : Word) : (s.stored a u).fault = s.fault := rfl
@[simp] theorem State.stored_loadErr (a : Nat) (u : Word) : (s.stored a u).loadErr = s.loadErr := rfl
@[simp] theorem State.stored_registry (a : Nat) (u : Word) : (s.stored a u).registry = s.registry := rfl
@[simp] theorem State.stored_prog (a : Nat) (u : Word) : (s.stored a u).prog = s.prog := rfl
@[simp] theorem State.stored_oracle (a : Nat) (u : Word) : (s.stored a u).oracle = s.oracle := rfl
@[simp] theorem State.stored_output (a : Nat) (u : Word) : (s.stored a u).output = s.output := rfl
@[simp] theorem State.stored_diagnostics (a : Nat) (u : Word) :
    (s.stored a u).diagnostics = s.diagnostics := rfl

/-- Storing the truncated word stores the same content. -/
@[simp] theorem State.stored_trunc (a : Nat) : s.stored a (trunc s.cfg.w v) =
    s.withMem (s.mem.write a (trunc s.cfg.w v)) := by simp [State.stored]

/-! The stack. -/

/-- A push above the boundary decrements SP and stores through the bounds check (R69). -/
theorem push_eq (u : Word) (h : s.hasReserved) :
    push u s =
      if s.sp.toNat ≤ s.hsb then .raise .stackOverflow s.sp.toNat s
      else memWrite ((s.setReg 1 ((s.sp.toNat : Int) - 1)).sp.toNat) u
        (s.setReg 1 ((s.sp.toNat : Int) - 1)) := by
  have h1 : spIndex < s.regs.length := h
  unfold push
  rw [readReg_ok _ _ h1, Res.bind_ok]
  change (if s.sp.toNat ≤ s.hsb then _ else _) = _
  split
  · rfl
  · rw [writeReg_ok _ _ _ h1, Res.bind_ok, readReg_ok _ _ (by simpa using h1)]
    rfl

/-- A pop below MSIZE reads the word at SP and increments SP (R70). -/
theorem pop_eq (h : s.hasReserved) :
    pop s =
      if s.msize ≤ s.sp.toNat then .raise .stackUnderflow s.sp.toNat s
      else .ok (s.wordAt s.sp.toNat, s.setReg 1 ((s.sp.toNat : Int) + 1)) := by
  have h1 : spIndex < s.regs.length := h
  unfold pop
  rw [readReg_ok _ _ h1, Res.bind_ok]
  change (if s.msize ≤ s.sp.toNat then _ else _) = _
  split
  · rfl
  · change ((memRead s.sp.toNat s).bind _) = _
    rw [memRead_ok _ _ (by omega), Res.bind_ok, writeReg_ok _ _ _ h1]
    rfl

/-! Taking a fault. -/

variable (c : FaultCode) (pc : Word) (info : Nat)

@[simp] theorem raiseFault_cfg : (raiseFault c pc info s).cfg = s.cfg := rfl
@[simp] theorem raiseFault_status : (raiseFault c pc info s).status = .faulted := rfl
@[simp] theorem raiseFault_regs : (raiseFault c pc info s).regs = s.regs := rfl
@[simp] theorem raiseFault_mem : (raiseFault c pc info s).mem = s.mem := rfl
@[simp] theorem raiseFault_pending :
    (raiseFault c pc info s).pending = { s.pending with valid := false } := rfl
@[simp] theorem raiseFault_fault : (raiseFault c pc info s).fault = faultRecord c pc info s := rfl
@[simp] theorem raiseFault_loadErr : (raiseFault c pc info s).loadErr = s.loadErr := rfl
@[simp] theorem raiseFault_registry : (raiseFault c pc info s).registry = s.registry := rfl
@[simp] theorem raiseFault_prog : (raiseFault c pc info s).prog = s.prog := rfl
@[simp] theorem raiseFault_oracle : (raiseFault c pc info s).oracle = s.oracle := rfl
@[simp] theorem raiseFault_output : (raiseFault c pc info s).output = s.output := rfl
@[simp] theorem raiseFault_diagnostics :
    (raiseFault c pc info s).diagnostics =
      s.diagnostics ++ [.faultReport (faultRecord c pc info s)] := rfl

/-! Ports. -/

/-- What an input request changes: the oracle, or the diagnostic history on an unbound port (R292). -/
theorem portIn_cases (port : Word) :
    (boundDevice s.registry.inMap port = none ∧
      portIn port s = (.unbound, s.report (.warn .unboundInput port))) ∨
    (∃ d a rest, boundDevice s.registry.inMap port = some d ∧ s.oracle.script = a :: rest ∧
      portIn port s = (.ofAnswer a, s.withOracle { s.oracle with script := rest })) ∨
    (∃ d, boundDevice s.registry.inMap port = some d ∧ s.oracle.script = [] ∧
      portIn port s = (.ofAnswer (Config.deviceAnswer d port s.oracle.draws),
        s.withOracle { s.oracle with draws := s.oracle.draws + 1 })) := by
  unfold portIn
  cases hb : boundDevice s.registry.inMap port with
  | none => simp
  | some d => cases hs : s.oracle.script <;> simp

/-- What an output request changes: one event of the output or of the diagnostic history (R293). -/
theorem portOut_cases (port value : Word) :
    (boundDevice s.registry.outMap port = none ∧
      portOut port value s = s.report (.warn .unboundOutput port)) ∨
    (∃ d, boundDevice s.registry.outMap port = some d ∧
      portOut port value s = s.emit (.out port value)) := by
  unfold portOut
  cases boundDevice s.registry.outMap port <;> simp

/-! The step's frame. -/

/-- With the reserved registers there, a step's body runs on the advanced state. -/
theorem withCur_eq (body : Word → State → Res State) (h : s.hasReserved) :
    withCur s body = finish s.pc (body s.pc s.advanced) := by
  have h0 : 0 < s.regs.length := by omega
  have e : s.regs[0]? = some s.pc := by simp [State.pc, State.regAt, h0]
  simp only [withCur, pcIndex, e, advance, writeReg_ok 0 _ s h0, Res.bind_ok]
  rfl

end Sys2Proof.Machine
end

