-- ==== Sys2Proof/Laws/Operands.lean ====
section
/-! SUPPORT. What the operand resolver and the two passes can do, said once. -/

namespace Sys2Proof.Machine

variable (s : State) (o : Operand)

/-! Resolving and writing an operand. -/

theorem resolve_ok (h : s.canUse o) : resolve o s = .ok (s.value o) := by
  rcases h with h | ⟨h, hi⟩
  · simp [resolve, State.value, h]
  · simp [resolve, State.value, h, readReg_ok _ _ hi]

theorem resolve_badKind (h : o.badKind) : resolve o s = .raise .badOperandKind 0 s := by
  rcases h with h | h <;> simp [resolve, h]

/-- Everything resolving an operand can do (R125). -/
theorem resolve_cases :
    (s.canUse o ∧ resolve o s = .ok (s.value o)) ∨
    (o.badKind ∧ resolve o s = .raise .badOperandKind 0 s) ∨
    (o.kind = .reg ∧ s.regs.length ≤ o.value.toNat ∧
      resolve o s = .stuck (.registerOutsideFile o.value.toNat)) := by
  cases h : o.kind with
  | imm => exact .inl ⟨.inl h, resolve_ok s o (.inl h)⟩
  | reg =>
    by_cases hi : o.value.toNat < s.regs.length
    · exact .inl ⟨.inr ⟨h, hi⟩, resolve_ok s o (.inr ⟨h, hi⟩)⟩
    · exact .inr (.inr ⟨rfl, by omega, by simp [resolve, h, readReg_eq, hi]⟩)
  | unknown2 => exact .inr (.inl ⟨.inl h, resolve_badKind s o (.inl h)⟩)
  | unknown3 => exact .inr (.inl ⟨.inr h, resolve_badKind s o (.inr h)⟩)

theorem writeTarget_ok (v : Int) (h : s.canUse o) : writeTarget o v s = .ok (s.assigned o v) := by
  rcases h with h | ⟨h, hi⟩
  · simp [writeTarget, State.assigned, h]
  · simp [writeTarget, State.assigned, h, writeReg_ok _ _ _ hi]

theorem writeTarget_badKind (v : Int) (h : o.badKind) :
    writeTarget o v s = .raise .badOperandKind 0 s := by
  rcases h with h | h <;> simp [writeTarget, h]

/-- Everything writing a target can do (R126). -/
theorem writeTarget_cases (v : Int) :
    (s.canUse o ∧ writeTarget o v s = .ok (s.assigned o v)) ∨
    (o.badKind ∧ writeTarget o v s = .raise .badOperandKind 0 s) ∨
    (o.kind = .reg ∧ s.regs.length ≤ o.value.toNat ∧
      writeTarget o v s = .stuck (.registerOutsideFile o.value.toNat)) := by
  cases h : o.kind with
  | imm => exact .inl ⟨.inl h, writeTarget_ok s o v (.inl h)⟩
  | reg =>
    by_cases hi : o.value.toNat < s.regs.length
    · exact .inl ⟨.inr ⟨h, hi⟩, writeTarget_ok s o v (.inr ⟨h, hi⟩)⟩
    · exact .inr (.inr ⟨rfl, by omega, by simp [writeTarget, h, writeReg_eq, hi]⟩)
  | unknown2 => exact .inr (.inl ⟨.inl h, writeTarget_badKind s o v (.inl h)⟩)
  | unknown3 => exact .inr (.inl ⟨.inr h, writeTarget_badKind s o v (.inr h)⟩)

@[simp] theorem State.canUse_advanced : s.advanced.canUse o ↔ s.canUse o := by simp [State.canUse]

theorem State.value_imm (h : o.kind = .imm) : s.value o = o.value := by simp [State.value, h]

theorem State.value_reg (h : o.kind = .reg) : s.value o = s.regAt o.value.toNat := by
  simp [State.value, h]

theorem State.assigned_imm (v : Int) (h : o.kind = .imm) : s.assigned o v = s := by
  simp [State.assigned, h]

theorem State.assigned_reg (v : Int) (h : o.kind = .reg) :
    s.assigned o v = s.setReg o.value.toNat v := by simp [State.assigned, h]

/-- Writing a target leaves the state or sets one register. -/
theorem State.assigned_cases (v : Int) :
    s.assigned o v = s ∨ (o.kind = .reg ∧ s.assigned o v = s.setReg o.value.toNat v) := by
  cases h : o.kind <;> simp [State.assigned, h]

variable (v : Int)

@[simp] theorem State.assigned_cfg : (s.assigned o v).cfg = s.cfg := by
  unfold State.assigned; split <;> rfl
@[simp] theorem State.assigned_status : (s.assigned o v).status = s.status := by
  unfold State.assigned; split <;> rfl
@[simp] theorem State.assigned_mem : (s.assigned o v).mem = s.mem := by
  unfold State.assigned; split <;> rfl
@[simp] theorem State.assigned_pending : (s.assigned o v).pending = s.pending := by
  unfold State.assigned; split <;> rfl
@[simp] theorem State.assigned_fault : (s.assigned o v).fault = s.fault := by
  unfold State.assigned; split <;> rfl
@[simp] theorem State.assigned_loadErr : (s.assigned o v).loadErr = s.loadErr := by
  unfold State.assigned; split <;> rfl
@[simp] theorem State.assigned_registry : (s.assigned o v).registry = s.registry := by
  unfold State.assigned; split <;> rfl
@[simp] theorem State.assigned_prog : (s.assigned o v).prog = s.prog := by
  unfold State.assigned; split <;> rfl
@[simp] theorem State.assigned_oracle : (s.assigned o v).oracle = s.oracle := by
  unfold State.assigned; split <;> rfl
@[simp] theorem State.assigned_output : (s.assigned o v).output = s.output := by
  unfold State.assigned; split <;> rfl
@[simp] theorem State.assigned_diagnostics : (s.assigned o v).diagnostics = s.diagnostics := by
  unfold State.assigned; split <;> rfl
@[simp] theorem State.assigned_length : (s.assigned o v).regs.length = s.regs.length := by
  unfold State.assigned; split <;> simp

/-- Writing the truncated value writes the same content. -/
@[simp] theorem State.assigned_trunc : s.assigned o (trunc s.cfg.w v).toNat = s.assigned o v := by
  unfold State.assigned; split <;> simp

/-! The two passes. -/

/-- Pass 1 only reads: a fault it raises is a bad operand kind or a load out of bounds, raised in the
state it was given (R127, R323). -/
theorem inputPass_raise (ops : List (Role × Operand)) (j off : Nat) (o : Slots) (c : FaultCode)
    (info : Nat) (t : State) (h : inputPass s j off o ops = .raise c info t) :
    t = s ∧ (c = .badOperandKind ∨ c = .loadOutOfBounds) := by
  induction ops generalizing j off o with
  | nil => simp [inputPass] at h
  | cons e rest ih =>
    obtain ⟨r, x⟩ := e
    cases r <;> simp only [inputPass] at h
    case set => exact ih _ _ _ h
    case setRam => exact ih _ _ _ h
    all_goals
      rcases resolve_cases s x with ⟨_, hr⟩ | ⟨_, hr⟩ | ⟨_, _, hr⟩ <;> rw [hr] at h
    all_goals simp only [Res.bind_ok, Res.bind_raise, Res.bind_stuck] at h
    case get.inl => exact ih _ _ _ h
    case ramOffset.inl => exact ih _ _ _ h
    case getRam.inl =>
      by_cases hm : (s.value x).toNat + off < s.msize
      · rw [memRead_ok _ _ hm] at h
        exact ih _ _ _ h
      · rw [memRead_raise _ _ (by omega)] at h
        simp at h
        exact ⟨h.2.2.symm, .inr h.1.symm⟩
    all_goals simp at h
    all_goals exact ⟨h.2.2.symm, .inl h.1.symm⟩

/-- The dispatcher's step as one expression on the advanced state (R131). -/
theorem runInstr_eq (ops : List (Role × Operand)) (fn : Fn) (h : s.hasReserved) :
    runInstr ops fn s =
      finish s.pc ((inputPass s.advanced 0 0 Slots.zero ops).bind fun r =>
        (fn r.1 s.advanced).bind (afterFn s.pc r.2 ops)) := withCur_eq s _ h

/-- Everything the dispatcher's step can answer as a next state (R131): the writeback completed, a
suspension, or a fault raised by pass 1, by the execution function or by pass 2. -/
theorem runInstr_next (ops : List (Role × Operand)) (fn : Fn) (t : State) (hres : s.hasReserved)
    (h : runInstr ops fn s = .next t) :
    (∃ o off o' s1 s2, inputPass s.advanced 0 0 Slots.zero ops = .ok (o, off) ∧
      fn o s.advanced = .ok (.complete o' s1) ∧ writebackPass 0 off o' ops s1 = .ok s2 ∧
      t = s2.withStatus .ready) ∨
    (∃ o off s1, inputPass s.advanced 0 0 Slots.zero ops = .ok (o, off) ∧
      fn o s.advanced = .ok (.incomplete s1) ∧ t = suspend s.pc (suspendTarget ops) s1) ∨
    (∃ c i, inputPass s.advanced 0 0 Slots.zero ops = .raise c i s.advanced ∧
      t = raiseFault c s.pc i s.advanced) ∨
    (∃ o off c i s1, inputPass s.advanced 0 0 Slots.zero ops = .ok (o, off) ∧
      fn o s.advanced = .raise c i s1 ∧ t = raiseFault c s.pc i s1) ∨
    (∃ o off o' s1 c i s2, inputPass s.advanced 0 0 Slots.zero ops = .ok (o, off) ∧
      fn o s.advanced = .ok (.complete o' s1) ∧ writebackPass 0 off o' ops s1 = .raise c i s2 ∧
      t = raiseFault c s.pc i s2) := by
  rw [runInstr_eq s ops fn hres] at h
  cases hp : inputPass s.advanced 0 0 Slots.zero ops with
  | stuck f => simp [hp] at h
  | raise c i u =>
    obtain ⟨rfl, _⟩ := inputPass_raise _ _ _ _ _ _ _ _ hp
    simp [hp] at h
    exact .inr (.inr (.inl ⟨c, i, rfl, h.symm⟩))
  | ok r =>
    obtain ⟨o, off⟩ := r
    cases hf : fn o s.advanced with
    | stuck f => simp [hp, hf] at h
    | raise c i u =>
      simp [hp, hf] at h
      exact .inr (.inr (.inr (.inl ⟨o, off, c, i, u, rfl, hf, h.symm⟩)))
    | ok q =>
      cases q with
      | incomplete s1 =>
        simp [hp, hf, afterFn] at h
        exact .inr (.inl ⟨o, off, s1, rfl, hf, h.symm⟩)
      | complete o' s1 =>
        cases hw : writebackPass 0 off o' ops s1 with
        | stuck f => simp [hp, hf, afterFn, hw] at h
        | raise c i u =>
          simp [hp, hf, afterFn, hw] at h
          exact .inr (.inr (.inr (.inr ⟨o, off, o', s1, c, i, u, rfl, hf, hw, h.symm⟩)))
        | ok s2 =>
          simp [hp, hf, afterFn, hw] at h
          exact .inl ⟨o, off, o', s1, s2, rfl, hf, hw, h.symm⟩

end Sys2Proof.Machine
end

