-- ==== Sys2Proof/Laws/PerInstr.lean ====
section
/-! SUPPORT. Laws stated for every instruction, one lemma per constructor. -/

namespace Sys2Proof.Laws

/-- The OPC field of an instruction's packed record is its opcode (R95), and its operand count is the
length of the opcode's role list, 0 for HLT (R94). -/
def OpcodeField.Statement (i : Instr) : Prop :=
  fieldOpc (encode i) = (opcodeOf i).toNat ∧ operandCount (opcodeOf i).toNat = some i.operands.length

theorem OpcodeField.add (a b c : Operand) : OpcodeField.Statement (.add a b c) :=
  ⟨fieldOpc_packSlots _ _ _ _, rfl⟩
theorem OpcodeField.rsh (a b : Operand) : OpcodeField.Statement (.rsh a b) :=
  ⟨fieldOpc_packSlots _ _ _ _, rfl⟩
theorem OpcodeField.lod (a b : Operand) : OpcodeField.Statement (.lod a b) :=
  ⟨fieldOpc_packSlots _ _ _ _, rfl⟩
theorem OpcodeField.str (a b : Operand) : OpcodeField.Statement (.str a b) :=
  ⟨fieldOpc_packSlots _ _ _ _, rfl⟩
theorem OpcodeField.bge (a b c : Operand) : OpcodeField.Statement (.bge a b c) :=
  ⟨fieldOpc_packSlots _ _ _ _, rfl⟩
theorem OpcodeField.nor (a b c : Operand) : OpcodeField.Statement (.nor a b c) :=
  ⟨fieldOpc_packSlots _ _ _ _, rfl⟩
theorem OpcodeField.imm (a b : Operand) : OpcodeField.Statement (.imm a b) :=
  ⟨fieldOpc_packSlots _ _ _ _, rfl⟩
theorem OpcodeField.sub (a b c : Operand) : OpcodeField.Statement (.sub a b c) :=
  ⟨fieldOpc_packSlots _ _ _ _, rfl⟩
theorem OpcodeField.jmp (a : Operand) : OpcodeField.Statement (.jmp a) :=
  ⟨fieldOpc_packSlots _ _ _ _, rfl⟩
theorem OpcodeField.mov (a b : Operand) : OpcodeField.Statement (.mov a b) :=
  ⟨fieldOpc_packSlots _ _ _ _, rfl⟩
theorem OpcodeField.nop : OpcodeField.Statement (.nop) :=
  ⟨fieldOpc_packSlots _ _ _ _, rfl⟩
theorem OpcodeField.lsh (a b : Operand) : OpcodeField.Statement (.lsh a b) :=
  ⟨fieldOpc_packSlots _ _ _ _, rfl⟩
theorem OpcodeField.inc (a b : Operand) : OpcodeField.Statement (.inc a b) :=
  ⟨fieldOpc_packSlots _ _ _ _, rfl⟩
theorem OpcodeField.dec (a b : Operand) : OpcodeField.Statement (.dec a b) :=
  ⟨fieldOpc_packSlots _ _ _ _, rfl⟩
theorem OpcodeField.neg (a b : Operand) : OpcodeField.Statement (.neg a b) :=
  ⟨fieldOpc_packSlots _ _ _ _, rfl⟩
theorem OpcodeField.and (a b c : Operand) : OpcodeField.Statement (.and a b c) :=
  ⟨fieldOpc_packSlots _ _ _ _, rfl⟩
theorem OpcodeField.or (a b c : Operand) : OpcodeField.Statement (.or a b c) :=
  ⟨fieldOpc_packSlots _ _ _ _, rfl⟩
theorem OpcodeField.not (a b : Operand) : OpcodeField.Statement (.not a b) :=
  ⟨fieldOpc_packSlots _ _ _ _, rfl⟩
theorem OpcodeField.xnor (a b c : Operand) : OpcodeField.Statement (.xnor a b c) :=
  ⟨fieldOpc_packSlots _ _ _ _, rfl⟩
theorem OpcodeField.xor (a b c : Operand) : OpcodeField.Statement (.xor a b c) :=
  ⟨fieldOpc_packSlots _ _ _ _, rfl⟩
theorem OpcodeField.nand (a b c : Operand) : OpcodeField.Statement (.nand a b c) :=
  ⟨fieldOpc_packSlots _ _ _ _, rfl⟩
theorem OpcodeField.brl (a b c : Operand) : OpcodeField.Statement (.brl a b c) :=
  ⟨fieldOpc_packSlots _ _ _ _, rfl⟩
theorem OpcodeField.brg (a b c : Operand) : OpcodeField.Statement (.brg a b c) :=
  ⟨fieldOpc_packSlots _ _ _ _, rfl⟩
theorem OpcodeField.bre (a b c : Operand) : OpcodeField.Statement (.bre a b c) :=
  ⟨fieldOpc_packSlots _ _ _ _, rfl⟩
theorem OpcodeField.bne (a b c : Operand) : OpcodeField.Statement (.bne a b c) :=
  ⟨fieldOpc_packSlots _ _ _ _, rfl⟩
theorem OpcodeField.bod (a b : Operand) : OpcodeField.Statement (.bod a b) :=
  ⟨fieldOpc_packSlots _ _ _ _, rfl⟩
theorem OpcodeField.bev (a b : Operand) : OpcodeField.Statement (.bev a b) :=
  ⟨fieldOpc_packSlots _ _ _ _, rfl⟩
theorem OpcodeField.ble (a b c : Operand) : OpcodeField.Statement (.ble a b c) :=
  ⟨fieldOpc_packSlots _ _ _ _, rfl⟩
theorem OpcodeField.brz (a b : Operand) : OpcodeField.Statement (.brz a b) :=
  ⟨fieldOpc_packSlots _ _ _ _, rfl⟩
theorem OpcodeField.bnz (a b : Operand) : OpcodeField.Statement (.bnz a b) :=
  ⟨fieldOpc_packSlots _ _ _ _, rfl⟩
theorem OpcodeField.brn (a b : Operand) : OpcodeField.Statement (.brn a b) :=
  ⟨fieldOpc_packSlots _ _ _ _, rfl⟩
theorem OpcodeField.brp (a b : Operand) : OpcodeField.Statement (.brp a b) :=
  ⟨fieldOpc_packSlots _ _ _ _, rfl⟩
theorem OpcodeField.psh (a : Operand) : OpcodeField.Statement (.psh a) :=
  ⟨fieldOpc_packSlots _ _ _ _, rfl⟩
theorem OpcodeField.pop (a : Operand) : OpcodeField.Statement (.pop a) :=
  ⟨fieldOpc_packSlots _ _ _ _, rfl⟩
theorem OpcodeField.cal (a : Operand) : OpcodeField.Statement (.cal a) :=
  ⟨fieldOpc_packSlots _ _ _ _, rfl⟩
theorem OpcodeField.ret : OpcodeField.Statement (.ret) :=
  ⟨fieldOpc_packSlots _ _ _ _, rfl⟩
theorem OpcodeField.hlt : OpcodeField.Statement (.hlt) :=
  ⟨fieldOpc_packSlots _ _ _ _, rfl⟩
theorem OpcodeField.cpy (a b : Operand) : OpcodeField.Statement (.cpy a b) :=
  ⟨fieldOpc_packSlots _ _ _ _, rfl⟩
theorem OpcodeField.brc (a b c : Operand) : OpcodeField.Statement (.brc a b c) :=
  ⟨fieldOpc_packSlots _ _ _ _, rfl⟩
theorem OpcodeField.bnc (a b c : Operand) : OpcodeField.Statement (.bnc a b c) :=
  ⟨fieldOpc_packSlots _ _ _ _, rfl⟩
theorem OpcodeField.mlt (a b c : Operand) : OpcodeField.Statement (.mlt a b c) :=
  ⟨fieldOpc_packSlots _ _ _ _, rfl⟩
theorem OpcodeField.div (a b c : Operand) : OpcodeField.Statement (.div a b c) :=
  ⟨fieldOpc_packSlots _ _ _ _, rfl⟩
theorem OpcodeField.mod (a b c : Operand) : OpcodeField.Statement (.mod a b c) :=
  ⟨fieldOpc_packSlots _ _ _ _, rfl⟩
theorem OpcodeField.bsr (a b c : Operand) : OpcodeField.Statement (.bsr a b c) :=
  ⟨fieldOpc_packSlots _ _ _ _, rfl⟩
theorem OpcodeField.bsl (a b c : Operand) : OpcodeField.Statement (.bsl a b c) :=
  ⟨fieldOpc_packSlots _ _ _ _, rfl⟩
theorem OpcodeField.srs (a b : Operand) : OpcodeField.Statement (.srs a b) :=
  ⟨fieldOpc_packSlots _ _ _ _, rfl⟩
theorem OpcodeField.bss (a b c : Operand) : OpcodeField.Statement (.bss a b c) :=
  ⟨fieldOpc_packSlots _ _ _ _, rfl⟩
theorem OpcodeField.sete (a b c : Operand) : OpcodeField.Statement (.sete a b c) :=
  ⟨fieldOpc_packSlots _ _ _ _, rfl⟩
theorem OpcodeField.setne (a b c : Operand) : OpcodeField.Statement (.setne a b c) :=
  ⟨fieldOpc_packSlots _ _ _ _, rfl⟩
theorem OpcodeField.setg (a b c : Operand) : OpcodeField.Statement (.setg a b c) :=
  ⟨fieldOpc_packSlots _ _ _ _, rfl⟩
theorem OpcodeField.setl (a b c : Operand) : OpcodeField.Statement (.setl a b c) :=
  ⟨fieldOpc_packSlots _ _ _ _, rfl⟩
theorem OpcodeField.setge (a b c : Operand) : OpcodeField.Statement (.setge a b c) :=
  ⟨fieldOpc_packSlots _ _ _ _, rfl⟩
theorem OpcodeField.setle (a b c : Operand) : OpcodeField.Statement (.setle a b c) :=
  ⟨fieldOpc_packSlots _ _ _ _, rfl⟩
theorem OpcodeField.setc (a b c : Operand) : OpcodeField.Statement (.setc a b c) :=
  ⟨fieldOpc_packSlots _ _ _ _, rfl⟩
theorem OpcodeField.setnc (a b c : Operand) : OpcodeField.Statement (.setnc a b c) :=
  ⟨fieldOpc_packSlots _ _ _ _, rfl⟩
theorem OpcodeField.llod (a b c : Operand) : OpcodeField.Statement (.llod a b c) :=
  ⟨fieldOpc_packSlots _ _ _ _, rfl⟩
theorem OpcodeField.lstr (a b c : Operand) : OpcodeField.Statement (.lstr a b c) :=
  ⟨fieldOpc_packSlots _ _ _ _, rfl⟩
theorem OpcodeField.sdiv (a b c : Operand) : OpcodeField.Statement (.sdiv a b c) :=
  ⟨fieldOpc_packSlots _ _ _ _, rfl⟩
theorem OpcodeField.sbrl (a b c : Operand) : OpcodeField.Statement (.sbrl a b c) :=
  ⟨fieldOpc_packSlots _ _ _ _, rfl⟩
theorem OpcodeField.sbrg (a b c : Operand) : OpcodeField.Statement (.sbrg a b c) :=
  ⟨fieldOpc_packSlots _ _ _ _, rfl⟩
theorem OpcodeField.sble (a b c : Operand) : OpcodeField.Statement (.sble a b c) :=
  ⟨fieldOpc_packSlots _ _ _ _, rfl⟩
theorem OpcodeField.sbge (a b c : Operand) : OpcodeField.Statement (.sbge a b c) :=
  ⟨fieldOpc_packSlots _ _ _ _, rfl⟩
theorem OpcodeField.ssetl (a b c : Operand) : OpcodeField.Statement (.ssetl a b c) :=
  ⟨fieldOpc_packSlots _ _ _ _, rfl⟩
theorem OpcodeField.ssetg (a b c : Operand) : OpcodeField.Statement (.ssetg a b c) :=
  ⟨fieldOpc_packSlots _ _ _ _, rfl⟩
theorem OpcodeField.ssetle (a b c : Operand) : OpcodeField.Statement (.ssetle a b c) :=
  ⟨fieldOpc_packSlots _ _ _ _, rfl⟩
theorem OpcodeField.ssetge (a b c : Operand) : OpcodeField.Statement (.ssetge a b c) :=
  ⟨fieldOpc_packSlots _ _ _ _, rfl⟩
theorem OpcodeField.abs (a b : Operand) : OpcodeField.Statement (.abs a b) :=
  ⟨fieldOpc_packSlots _ _ _ _, rfl⟩
theorem OpcodeField.inPort (a b : Operand) : OpcodeField.Statement (.inPort a b) :=
  ⟨fieldOpc_packSlots _ _ _ _, rfl⟩
theorem OpcodeField.outPort (a b : Operand) : OpcodeField.Statement (.outPort a b) :=
  ⟨fieldOpc_packSlots _ _ _ _, rfl⟩

end Sys2Proof.Laws
end

