-- ==== Sys2Proof/Laws/Ports.lean ====
section
/-! SUPPORT. What looking up a port number can answer (R301). -/

namespace Sys2Proof

/-- A number PORTS gives is the number of an entry with that name. -/
theorem Config.Ports.mem_of_number (ports : Config.Ports) (name : String) (v : Word)
    (h : ports.number name = some v) : (name, v) ∈ ports.entries := by
  obtain ⟨e, he, rfl⟩ := Option.map_eq_some_iff.mp h
  have hn : e.1 = name := by simpa using List.find?_some he
  exact hn ▸ List.mem_of_find?_eq_some he

/-- In entries without repeats, one number has one name. -/
theorem Config.Ports.name_unique (entries : List (String × Word))
    (h : entries.Pairwise fun d e => d.1 ≠ e.1 ∧ d.2 ≠ e.2) :
    ∀ d ∈ entries, ∀ e ∈ entries, d.2 = e.2 → d.1 = e.1 := by
  induction entries with
  | nil => simp
  | cons x rest ih =>
    obtain ⟨hx, hr⟩ := List.pairwise_cons.mp h
    intro d hd e he hde
    rcases List.mem_cons.mp hd with hd | hd <;> rcases List.mem_cons.mp he with he | he
    · rw [hd, he]
    · rw [hd] at hde; exact absurd hde (hx e he).2
    · rw [he] at hde; exact absurd hde.symm (hx d hd).2
    · exact ih hr d hd e he hde

/-- PORTS is injective, and its numbers are words in [0, M]. -/
theorem Config.Ports.number_injective (ports : Config.Ports) (m v : Word) (a b : String)
    (h : ports.wf m) (ha : ports.number a = some v) (hb : ports.number b = some v) :
    a = b ∧ v.toNat ≤ m.toNat :=
  have ma := ports.mem_of_number _ _ ha
  ⟨name_unique _ h.1 _ ma _ (ports.mem_of_number _ _ hb) rfl, h.2 _ ma⟩

end Sys2Proof
end

