-- ==== Sys2Proof/Laws/Results.lean ====
section
/-! SUPPORT. The dispatcher's step for each shape of role list, on usable operands: what the state after
the step is, once the execution function's answer on the operand words is known. -/

namespace Sys2Proof.Machine

variable {s : State}

theorem State.hasReserved_advanced (h : s.hasReserved) : s.advanced.hasReserved := by
  simpa [State.hasReserved] using h

/-- The PC advance leaves the SP alone. -/
theorem State.advanced_sp (s : State) : s.advanced.sp = s.sp :=
  State.regAt_setReg_other _ _ _ 1 (by decide)

/-- A push inside a step, above the boundary: the SP is decremented and the word written below it (R69). -/
theorem push_advanced (v : Word) (h : s.hasReserved) (hw : s.sp.toNat < 2 ^ s.cfg.w.bits)
    (h0 : s.hsb < s.sp.toNat) :
    push v s.advanced =
      memWrite (s.sp.toNat - 1) v (s.advanced.setReg 1 ((s.sp.toNat : Int) - 1)) := by
  have hr := State.hasReserved_advanced h
  rw [push_eq _ _ hr, State.advanced_sp, if_neg (by simp; omega)]
  have hsp : ((s.advanced.setReg 1 ((s.sp.toNat : Int) - 1)).sp).toNat = s.sp.toNat - 1 := by
    rw [State.sp, State.regAt_setReg_same _ _ _ hr]
    have ht := trunc_toNat s.cfg.w ((s.sp.toNat : Int) - 1)
    have he : (2 : Int) ^ s.cfg.w.bits = ((2 ^ s.cfg.w.bits : Nat) : Int) := by push_cast; rfl
    rw [Int.emod_eq_of_lt (by omega) (by omega)] at ht
    simp only [State.advanced_cfg]; omega
  rw [hsp]

/-- A pop inside a step, below the top of memory: the word at the SP, and the SP incremented (R70). -/
theorem pop_advanced (h : s.hasReserved) (hm : s.sp.toNat < s.msize) :
    pop s.advanced = .ok (s.wordAt s.sp.toNat, s.advanced.setReg 1 ((s.sp.toNat : Int) + 1)) := by
  rw [pop_eq _ (State.hasReserved_advanced h), State.advanced_sp, if_neg (by simp; omega)]; rfl

/-- Roles [SET, GET]: operand 0 receives the slot a. -/
theorem runInstr_set_get (a b : Operand) (fn : Fn) (o : Slots) (t : State) (h : s.hasReserved)
    (ha : t.canUse a) (hb : s.canUse b)
    (hf : fn ⟨0, s.advanced.value b, 0⟩ s.advanced = .ok (.complete o t)) :
    runInstr [(.set, a), (.get, b)] fn s = .next (t.assigned a o.a.toNat).completed := by
  have hb' := (State.canUse_advanced s b).2 hb
  rw [runInstr_eq _ _ _ h]
  simp only [inputPass, resolve_ok _ _ hb', Res.bind_ok, Slots.put, Slots.zero, hf, afterFn,
    writebackPass, Slots.at, writeTarget_ok _ _ _ ha, finish_ok, State.completed]

/-- Roles [SET, GET, GET]: operand 0 receives the slot a. -/
theorem runInstr_set_get_get (a b c : Operand) (fn : Fn) (o : Slots) (t : State) (h : s.hasReserved)
    (ha : t.canUse a) (hb : s.canUse b) (hc : s.canUse c)
    (hf : fn ⟨0, s.advanced.value b, s.advanced.value c⟩ s.advanced = .ok (.complete o t)) :
    runInstr [(.set, a), (.get, b), (.get, c)] fn s = .next (t.assigned a o.a.toNat).completed := by
  have hb' := (State.canUse_advanced s b).2 hb
  have hc' := (State.canUse_advanced s c).2 hc
  rw [runInstr_eq _ _ _ h]
  simp only [inputPass, resolve_ok _ _ hb', resolve_ok _ _ hc', Res.bind_ok, Slots.put, Slots.zero, hf,
    afterFn, writebackPass, Slots.at, writeTarget_ok _ _ _ ha, finish_ok, State.completed]

/-- Role [GET]. -/
theorem runInstr_get (a : Operand) (fn : Fn) (o : Slots) (t : State) (h : s.hasReserved)
    (ha : s.canUse a) (hf : fn ⟨s.advanced.value a, 0, 0⟩ s.advanced = .ok (.complete o t)) :
    runInstr [(.get, a)] fn s = .next t.completed := by
  have ha' := (State.canUse_advanced s a).2 ha
  rw [runInstr_eq _ _ _ h]
  simp only [inputPass, resolve_ok _ _ ha', Res.bind_ok, Slots.put, Slots.zero, hf, afterFn,
    writebackPass, finish_ok, State.completed]

/-- Roles [GET, GET]. -/
theorem runInstr_get_get (a b : Operand) (fn : Fn) (o : Slots) (t : State) (h : s.hasReserved)
    (ha : s.canUse a) (hb : s.canUse b)
    (hf : fn ⟨s.advanced.value a, s.advanced.value b, 0⟩ s.advanced = .ok (.complete o t)) :
    runInstr [(.get, a), (.get, b)] fn s = .next t.completed := by
  have ha' := (State.canUse_advanced s a).2 ha
  have hb' := (State.canUse_advanced s b).2 hb
  rw [runInstr_eq _ _ _ h]
  simp only [inputPass, resolve_ok _ _ ha', resolve_ok _ _ hb', Res.bind_ok, Slots.put, Slots.zero, hf,
    afterFn, writebackPass, finish_ok, State.completed]

/-- Roles [GET, GET, GET]. -/
theorem runInstr_get_get_get (a b c : Operand) (fn : Fn) (o : Slots) (t : State) (h : s.hasReserved)
    (ha : s.canUse a) (hb : s.canUse b) (hc : s.canUse c)
    (hf : fn ⟨s.advanced.value a, s.advanced.value b, s.advanced.value c⟩ s.advanced =
      .ok (.complete o t)) :
    runInstr [(.get, a), (.get, b), (.get, c)] fn s = .next t.completed := by
  have ha' := (State.canUse_advanced s a).2 ha
  have hb' := (State.canUse_advanced s b).2 hb
  have hc' := (State.canUse_advanced s c).2 hc
  rw [runInstr_eq _ _ _ h]
  simp only [inputPass, resolve_ok _ _ ha', resolve_ok _ _ hb', resolve_ok _ _ hc', Res.bind_ok,
    Slots.put, Slots.zero, hf, afterFn, writebackPass, finish_ok, State.completed]

end Sys2Proof.Machine
end

