-- ==== Sys2Proof/Laws/Run.lean ====
section
/-! SUPPORT. What a final state shows, and what each host call does to a run (R138). -/

namespace Sys2Proof.Machine

@[simp] theorem State.finalState_regs (s : State) : s.finalState.regs = s.regs := rfl
@[simp] theorem State.finalState_mem (s : State) : s.finalState.mem = s.mem := rfl
@[simp] theorem State.finalState_output (s : State) : s.finalState.output = s.output := rfl

@[simp] theorem endOfRun_nil (burst : Nat) (s : State) : endOfRun burst [] s = none := rfl

/-- A `step` or `run` that returns Halted ends the run there. -/
theorem endOfRun_halted (burst : Nat) (c : HostCall) (rest : List HostCall) (s t : State)
    (h : c.make burst s = .next t) (he : c.executes = true) (ht : t.status = .halted) :
    endOfRun burst (c :: rest) s = some t.finalState := by
  simp [endOfRun, h, he, ht]

/-- Any other call that proceeds leaves the run to the calls after it. -/
theorem endOfRun_proceeds (burst : Nat) (c : HostCall) (rest : List HostCall) (s t : State)
    (h : c.make burst s = .next t) (hc : c.executes = false ∨ t.status ≠ .halted) :
    endOfRun burst (c :: rest) s = endOfRun burst rest t := by
  rcases hc with hc | hc <;> simp [endOfRun, h, hc]

/-- A refused call leaves the run as it was (R362). -/
theorem endOfRun_refused (burst : Nat) (c : HostCall) (rest : List HostCall) (s : State) (r : Refusal)
    (h : c.make burst s = .refused r) : endOfRun burst (c :: rest) s = endOfRun burst rest s := by
  simp [endOfRun, h]

end Sys2Proof.Machine
end

