-- ==== Sys2Proof/Laws/StepCases.lean ====
section
/-! SUPPORT. What a step can do, said once for every instruction: `Evolves s t` holds of every state `t` a
step from `s` passes through, and `StepEnds` lists the four ways a step ends. A lemma about all steps is a
case analysis on `exec_stepEnds`. -/

namespace Sys2Proof.Machine

/-- `t` is reached from `s` by writes of W-bit words to registers of the file and to words of the memory,
and by events of the environment. -/
structure Evolves (s t : State) : Prop where
  cfg : t.cfg = s.cfg
  status : t.status = s.status
  fileLength : t.regs.length = s.regs.length
  regWords : ∀ v ∈ t.regs, v ∈ s.regs ∨ v.toNat < 2 ^ s.cfg.w.bits
  memCanonical : s.mem.wf → t.mem.wf
  memWords : ∀ c ∈ t.mem, c ∈ s.mem ∨ (c.1 < s.msize ∧ c.2.toNat < 2 ^ s.cfg.w.bits)
  pending : t.pending = s.pending
  fault : t.fault = s.fault
  loadErr : t.loadErr = s.loadErr
  registry : t.registry = s.registry
  prog : t.prog = s.prog

theorem Evolves.refl (s : State) : Evolves s s :=
  ⟨rfl, rfl, rfl, fun _ h => .inl h, id, fun _ h => .inl h, rfl, rfl, rfl, rfl, rfl⟩

theorem Evolves.trans {s t u : State} (h1 : Evolves s t) (h2 : Evolves t u) : Evolves s u where
  cfg := h2.cfg.trans h1.cfg
  status := h2.status.trans h1.status
  fileLength := h2.fileLength.trans h1.fileLength
  regWords v hv := by
    rcases h2.regWords v hv with h | h
    · exact h1.regWords v h
    · rw [h1.cfg] at h; exact .inr h
  memCanonical h := h2.memCanonical (h1.memCanonical h)
  memWords c hc := by
    have hm : t.msize = s.msize := by simp [State.msize, h1.cfg]
    rcases h2.memWords c hc with h | h
    · exact h1.memWords c h
    · rw [h1.cfg, hm] at h; exact .inr h
  pending := h2.pending.trans h1.pending
  fault := h2.fault.trans h1.fault
  loadErr := h2.loadErr.trans h1.loadErr
  registry := h2.registry.trans h1.registry
  prog := h2.prog.trans h1.prog

theorem Evolves.hasReserved {s t : State} (h : Evolves s t) (hs : s.hasReserved) : t.hasReserved := by
  rw [State.hasReserved, h.fileLength]; exact hs

theorem Evolves.setReg (s : State) (i : Nat) (v : Int) : Evolves s (s.setReg i v) := by
  refine ⟨rfl, rfl, by simp, fun u hu => ?_, id, fun _ h => .inl h, rfl, rfl, rfl, rfl, rfl⟩
  rcases State.mem_setReg_regs _ _ _ _ hu with h | h
  · exact .inl h
  · exact .inr (h ▸ trunc_lt _ _)

theorem Evolves.stored (s : State) (a : Nat) (v : Word) (h : a < s.msize) : Evolves s (s.stored a v) := by
  refine ⟨rfl, rfl, rfl, fun _ h => .inl h, Memory.write_wf _ _ _, fun c hc => ?_, rfl, rfl, rfl, rfl, rfl⟩
  rcases Memory.mem_write _ _ _ _ hc with h | ⟨rfl, _⟩
  · exact .inl h
  · exact .inr ⟨h, trunc_lt _ _⟩

theorem Evolves.assigned (s : State) (o : Operand) (v : Int) : Evolves s (s.assigned o v) := by
  rcases State.assigned_cases s o v with h | ⟨_, h⟩ <;> rw [h]
  · exact Evolves.refl s
  · exact Evolves.setReg ..

theorem Evolves.portIn (p : Word) (s : State) : Evolves s (portIn p s).2 := by
  rcases portIn_cases s p with ⟨_, h⟩ | ⟨_, _, _, _, _, h⟩ | ⟨_, _, _, h⟩ <;> rw [h] <;>
    exact ⟨rfl, rfl, rfl, fun _ h => .inl h, id, fun _ h => .inl h, rfl, rfl, rfl, rfl, rfl⟩

theorem Evolves.portOut (p v : Word) (s : State) : Evolves s (portOut p v s) := by
  rcases portOut_cases s p v with ⟨_, h⟩ | ⟨_, _, h⟩ <;> rw [h] <;>
    exact ⟨rfl, rfl, rfl, fun _ h => .inl h, id, fun _ h => .inl h, rfl, rfl, rfl, rfl, rfl⟩

/-- A piece of a step ends with a result, or by raising a fault, in a state `s` evolves to; it is not stuck.
`st` is the state a result carries. -/
inductive ResultEvolves {α : Type} (s : State) (st : α → State) : Res α → Prop
  | ok (a : α) (h : Evolves s (st a)) : ResultEvolves s st (.ok a)
  | raise (c : FaultCode) (i : Nat) (t : State) (hc : c ≠ .none) (h : Evolves s t) :
    ResultEvolves s st (.raise c i t)

theorem ResultEvolves.mono {α : Type} {s t : State} {f : α → State} {r : Res α} (h1 : Evolves s t)
    (h : ResultEvolves t f r) : ResultEvolves s f r := by
  cases h with
  | ok a h => exact .ok _ (h1.trans h)
  | raise c i u hc h => exact .raise _ _ _ hc (h1.trans h)

theorem ResultEvolves.bind {α β : Type} {s : State} {f : α → State} {g : β → State} {r : Res α}
    {k : α → Res β} (h : ResultEvolves s f r)
    (hk : ∀ a, Evolves s (f a) → ResultEvolves (f a) g (k a)) : ResultEvolves s g (r.bind k) := by
  cases h with
  | ok a h => exact (hk a h).mono h
  | raise c i u hc h => exact .raise _ _ _ hc h

theorem memWrite_evolves (s : State) (a : Nat) (v : Word) : ResultEvolves s id (memWrite a v s) := by
  by_cases h : a < s.msize
  · rw [memWrite_ok _ _ _ h]; exact .ok _ (Evolves.stored _ _ _ h)
  · rw [memWrite_raise _ _ _ (by omega)]; exact .raise _ _ _ (by decide) (Evolves.refl s)

theorem push_evolves (s : State) (v : Word) (h : s.hasReserved) : ResultEvolves s id (push v s) := by
  rw [push_eq _ _ h]; split
  · exact .raise _ _ _ (by decide) (Evolves.refl s)
  · exact (memWrite_evolves _ _ _).mono (Evolves.setReg ..)

theorem pop_evolves (s : State) (h : s.hasReserved) : ResultEvolves s Prod.snd (pop s) := by
  rw [pop_eq _ h]; split
  · exact .raise _ _ _ (by decide) (Evolves.refl s)
  · exact .ok _ (Evolves.setReg ..)

theorem resolve_evolves {β : Type} (s : State) (o : Operand)
    (h : o.kind = .reg → o.value.toNat < s.regs.length) (k : Word → Res β) (g : β → State)
    (hk : ∀ v, ResultEvolves s g (k v)) : ResultEvolves s g ((resolve o s).bind k) := by
  rcases resolve_cases s o with ⟨_, he⟩ | ⟨_, he⟩ | ⟨h1, h2, _⟩
  · rw [he]; exact hk _
  · rw [he]; exact .raise _ _ _ (by decide) (Evolves.refl s)
  · have := h h1; omega

theorem writeTarget_evolves (s : State) (o : Operand) (v : Int)
    (h : o.kind = .reg → o.value.toNat < s.regs.length) : ResultEvolves s id (writeTarget o v s) := by
  rcases writeTarget_cases s o v with ⟨_, he⟩ | ⟨_, he⟩ | ⟨h1, h2, _⟩
  · rw [he]; exact .ok _ (Evolves.assigned ..)
  · rw [he]; exact .raise _ _ _ (by decide) (Evolves.refl s)
  · have := h h1; omega

/-! The execution functions. -/

/-- The machine an execution function leaves. -/
def fnState : FnResult → State
  | .complete _ s => s
  | .incomplete s => s

/-- The execution function only makes the machine evolve, and is not stuck while the reserved registers are
there (R132). -/
def FnEvolves (fn : Fn) : Prop := ∀ o s, s.hasReserved → ResultEvolves s fnState (fn o s)

/-- A jump always completes and writes the PC only (R240). -/
theorem jumpTo_ok (s : State) (h : s.hasReserved) (t : Word) (o : Slots) :
    jumpTo t o s = .ok (.complete o (s.setReg 0 t.toNat)) := by
  unfold jumpTo
  rw [writeReg_ok _ _ _ (show pcIndex < _ by unfold pcIndex; omega)]
  rfl

theorem jumpTo_evolves (t : Word) (o : Slots) (s : State) (h : s.hasReserved) :
    ResultEvolves s fnState (jumpTo t o s) := by
  rw [jumpTo_ok _ h]; exact .ok _ (Evolves.setReg ..)

theorem fnUnary_evolves (f) : FnEvolves (fnUnary f) := fun _ s _ => .ok _ (Evolves.refl s)
theorem fnBinary_evolves (f) : FnEvolves (fnBinary f) := fun _ s _ => .ok _ (Evolves.refl s)
theorem fnSetIf_evolves (f) : FnEvolves (fnSetIf f) := fun _ s _ => .ok _ (Evolves.refl s)
theorem fnCopyB_evolves : FnEvolves fnCopyB := fun _ s _ => .ok _ (Evolves.refl s)
theorem fnCopyC_evolves : FnEvolves fnCopyC := fun _ s _ => .ok _ (Evolves.refl s)
theorem fnNothing_evolves : FnEvolves fnNothing := fun _ s _ => .ok _ (Evolves.refl s)
theorem fnJump_evolves : FnEvolves fnJump := fun _ s h => jumpTo_evolves _ _ s h
theorem fnOut_evolves : FnEvolves fnOut := fun _ _ _ => .ok _ (Evolves.portOut ..)

theorem fnDivide_evolves (f) : FnEvolves (fnDivide f) := fun o s _ => by
  unfold fnDivide; split
  · exact .raise _ _ _ (by decide) (Evolves.refl s)
  · exact .ok _ (Evolves.refl s)

theorem fnBranchUnary_evolves (f) : FnEvolves (fnBranchUnary f) := fun _ s h => by
  unfold fnBranchUnary; split
  · exact jumpTo_evolves _ _ s h
  · exact .ok _ (Evolves.refl s)

theorem fnBranchBinary_evolves (f) : FnEvolves (fnBranchBinary f) := fun _ s h => by
  unfold fnBranchBinary; split
  · exact jumpTo_evolves _ _ s h
  · exact .ok _ (Evolves.refl s)

theorem fnCall_evolves : FnEvolves fnCall := fun o s h => by
  unfold fnCall
  rw [readReg_ok _ _ (show pcIndex < s.regs.length by unfold pcIndex; omega), Res.bind_ok]
  exact (push_evolves s _ h).bind fun _ he => jumpTo_evolves _ _ _ (he.hasReserved h)

theorem fnReturn_evolves : FnEvolves fnReturn := fun _ s h =>
  (pop_evolves s h).bind fun _ he => jumpTo_evolves _ _ _ (he.hasReserved h)

theorem fnPush_evolves : FnEvolves fnPush := fun _ s h =>
  (push_evolves s _ h).bind fun _ _ => .ok _ (Evolves.refl _)

theorem fnPop_evolves : FnEvolves fnPop := fun _ s h =>
  (pop_evolves s h).bind fun _ _ => .ok _ (Evolves.refl _)

theorem fnIn_evolves : FnEvolves fnIn := fun o s _ => by
  unfold fnIn
  have h := Evolves.portIn o.b s
  split <;> rename_i he <;> rw [he] at h <;> exact .ok _ h

/-! The two passes. -/

theorem inputPass_evolves (ops : List (Role × Operand)) (s : State)
    (h : ∀ e ∈ ops, e.2.kind = .reg → e.2.value.toNat < s.regs.length) (j off : Nat) (o : Slots) :
    ResultEvolves s (fun _ => s) (inputPass s j off o ops) := by
  induction ops generalizing j off o with
  | nil => exact .ok _ (Evolves.refl s)
  | cons e rest ih =>
    obtain ⟨r, x⟩ := e
    have ih := ih fun e he => h e (List.mem_cons_of_mem _ he)
    have hx := resolve_evolves (β := Slots × Nat) s x (h (r, x) List.mem_cons_self)
    cases r <;> simp only [inputPass]
    case set => exact ih _ _ _
    case setRam => exact ih _ _ _
    case get => exact hx _ _ fun v => ih _ _ _
    case ramOffset => exact hx _ _ fun v => ih _ _ _
    case getRam =>
      refine hx _ _ fun v => ?_
      by_cases hm : v.toNat + off < s.msize
      · rw [memRead_ok _ _ hm]; exact ih _ _ _
      · rw [memRead_raise _ _ (by omega)]; exact .raise _ _ _ (by decide) (Evolves.refl s)

theorem writebackPass_evolves (ops : List (Role × Operand)) (j off : Nat) (o : Slots) (s : State)
    (h : ∀ e ∈ ops, e.2.kind = .reg → e.2.value.toNat < s.regs.length) :
    ResultEvolves s id (writebackPass j off o ops s) := by
  induction ops generalizing j s with
  | nil => exact .ok _ (Evolves.refl s)
  | cons e rest ih =>
    obtain ⟨r, x⟩ := e
    have hrest : ∀ {t : State}, Evolves s t → ResultEvolves t id (writebackPass (j + 1) off o rest t) :=
      fun ht => ih _ _ fun e he hk => by
        rw [ht.fileLength]; exact h e (List.mem_cons_of_mem _ he) hk
    have hx := h (r, x) List.mem_cons_self
    cases r <;> simp only [writebackPass]
    case get => exact hrest (Evolves.refl s)
    case getRam => exact hrest (Evolves.refl s)
    case ramOffset => exact hrest (Evolves.refl s)
    case set => exact (writeTarget_evolves s x _ hx).bind fun _ he => hrest he
    case setRam =>
      exact resolve_evolves s x hx _ _ fun v => (memWrite_evolves _ _ _).bind fun _ he => hrest he

/-! The whole step. -/

/-- The four ways a step from `s` over the instruction at index `cur` ends (R120): Continue, Halted, a
suspension that records the operand `tgt`, or a fatal fault. -/
inductive StepEnds (s : State) (cur : Word) (tgt : Operand) : Outcome → Prop
  | continued (t : State) (h : Evolves s t) : StepEnds s cur tgt (.next (t.withStatus .ready))
  | halted (t : State) (h : Evolves s t) : StepEnds s cur tgt (.next (t.withStatus .halted))
  | suspended (t : State) (h : Evolves s t) : StepEnds s cur tgt (.next (suspend cur tgt t))
  | faulted (t : State) (c : FaultCode) (i : Nat) (hc : c ≠ .none) (h : Evolves s t) :
    StepEnds s cur tgt (.next (raiseFault c cur i t))

theorem runInstr_stepEnds (ops : List (Role × Operand)) (fn : Fn) (s : State) (h : s.hasReserved)
    (hf : FnEvolves fn) (ho : ∀ e ∈ ops, e.2.kind = .reg → e.2.value.toNat < s.regs.length) :
    StepEnds s s.pc (suspendTarget ops) (runInstr ops fn s) := by
  rw [runInstr_eq _ _ _ h]
  have ha : Evolves s s.advanced := Evolves.setReg ..
  have ho' : ∀ {t : State}, Evolves s t →
      ∀ e ∈ ops, e.2.kind = .reg → e.2.value.toNat < t.regs.length :=
    fun ht e he hk => by rw [ht.fileLength]; exact ho e he hk
  have h1 := inputPass_evolves ops s.advanced (ho' ha) 0 0 Slots.zero
  generalize inputPass s.advanced 0 0 Slots.zero ops = r1 at h1 ⊢
  cases h1 with
  | raise c i t hc h1 => exact .faulted _ _ _ hc (ha.trans h1)
  | ok r _ =>
    have h2 := hf r.1 s.advanced (ha.hasReserved h)
    simp only [Res.bind_ok]
    generalize fn r.1 s.advanced = r2 at h2 ⊢
    cases h2 with
    | raise c i t hc h2 => exact .faulted _ _ _ hc (ha.trans h2)
    | ok q h2 =>
      have h2 := ha.trans h2
      cases q with
      | incomplete u => exact .suspended _ h2
      | complete o u =>
        have h3 := writebackPass_evolves ops 0 r.2 o u (ho' h2)
        simp only [Res.bind_ok, afterFn]
        generalize writebackPass 0 r.2 o ops u = r3 at h3 ⊢
        cases h3 with
        | raise c i t hc h3 => exact .faulted _ _ _ hc (h2.trans h3)
        | ok t h3 => exact .continued _ (h2.trans h3)

/-- Every instruction whose register operands lie in the register file ends its step in one of the four
ways, and suspends on one of its own operands. -/
theorem exec_stepEnds (i : Instr) (s : State) (h : s.hasReserved) (ho : s.inFile i) :
    ∃ tgt, (tgt ∈ i.operands ∨ tgt = emptySlot) ∧ StepEnds s s.pc tgt (exec i s) := by
  cases i
  case hlt =>
    refine ⟨emptySlot, .inr rfl, ?_⟩
    change StepEnds _ _ _ (withCur _ _)
    rw [withCur_eq _ _ h]
    exact .halted _ (Evolves.setReg ..)
  all_goals
    refine ⟨_, ?_, runInstr_stepEnds _ _ s h ?_ fun e he => ho e.2 ?_⟩
    · simp [suspendTarget, Instr.operands, emptySlot]
    · first
      | exact fnUnary_evolves _
      | exact fnBinary_evolves _
      | exact fnSetIf_evolves _
      | exact fnBranchUnary_evolves _
      | exact fnBranchBinary_evolves _
      | exact fnDivide_evolves _
      | exact fnCopyB_evolves
      | exact fnCopyC_evolves
      | exact fnNothing_evolves
      | exact fnJump_evolves
      | exact fnCall_evolves
      | exact fnReturn_evolves
      | exact fnPush_evolves
      | exact fnPop_evolves
      | exact fnIn_evolves
      | exact fnOut_evolves
    · exact List.mem_map_of_mem (f := Prod.snd) he

end Sys2Proof.Machine
end

