-- ==== Sys2Proof/Tests/Slice0.lean ====
section
/-! SUPPORT. Tests of one step or one host call each, with their expected results taken from
95_test_vectors.md or from the rule named, and for every obligation with hypotheses a witness: a concrete
state and operands that meet them. -/

namespace Sys2Proof.Tests

open Sys2Proof.Machine

/-! Helpers. -/

/-- The next state of an outcome, if it is one. -/
def after : Outcome → Option State
  | .next t => some t
  | .fault _ => none
  | .refused _ => none

/-- The refusal of an outcome, if it is one. -/
def refusalOf : Outcome → Option Refusal
  | .next _ => none
  | .fault _ => none
  | .refused r => some r

def regAfter (n : Nat) (o : Outcome) : Option Word := (after o).map fun t => t.regAt n
def wordAfter (a : Nat) (o : Outcome) : Option Word := (after o).map fun t => t.wordAt a
def statusAfter (o : Outcome) : Option Status := (after o).map fun t => t.status
def faultAfter (o : Outcome) : Option (FaultCode × Nat × FaultAccess × Word) :=
  (after o).map fun t => (t.fault.code, t.fault.addr, t.fault.access, t.fault.pc)

def reg (n : Word) : Operand := ⟨.reg, n⟩
def lit (v : Word) : Operand := ⟨.imm, v⟩
def bad2 : Operand := ⟨.unknown2, 0⟩
def bad3 : Operand := ⟨.unknown3, 1⟩
def pcR : Operand := reg 0
def spR : Operand := reg 1
def r0 : Operand := reg 2
def r1 : Operand := reg 3
def r2 : Operand := reg 4

/-- W = 8, 5 registers, MSIZE = 32, HSB = 24, PLEN = 20, as the rows of V5, V8 and V9 take them. -/
def cfg8 : Cfg :=
  { w := .w8, m := 255, sign := 128, smax := 127, nreg := 5, slen := 0, heap := 24, stack := 8
    msize := 32, hsb := 24, plen := 20 }

/-- An 8-bit machine at index 10 with a given SP. -/
def m8at (sp a b c : Word) (mem : Memory) : State :=
  { State.reset with cfg := cfg8, status := .ready, regs := [10, sp, a, b, c], mem := mem }

/-- An 8-bit machine at index 10 with an empty stack. -/
def m8 (a b c : Word) : State := m8at 32 a b c []

def alu1 (mk : Operand → Operand → Instr) (b : Word) : Option Word :=
  regAfter 2 (exec (mk r0 r1) (m8 7 b 0))
def alu2 (mk : Operand → Operand → Operand → Instr) (b c : Word) : Option Word :=
  regAfter 2 (exec (mk r0 r1 r2) (m8 7 b c))
def br1 (mk : Operand → Operand → Instr) (b : Word) : Option Word :=
  regAfter 0 (exec (mk (lit 3) r1) (m8 0 b 0))
def br2 (mk : Operand → Operand → Operand → Instr) (b c : Word) : Option Word :=
  regAfter 0 (exec (mk (lit 3) r1 r2) (m8 0 b c))

/-! WellFormed: each check refuses an ill-formed term (R97, R98, R354). -/

theorem test_wellFormed_imm_limit :
    Instr.wellFormed 255 4 (.imm (reg 3) (lit 255)) = true ∧
    Instr.wellFormed 255 4 (.imm (reg 3) (lit 256)) = false := by decide

theorem test_wellFormed_reg_limit :
    Instr.wellFormed 255 4 (.mov (reg 2) (reg 3)) = true ∧
    Instr.wellFormed 255 4 (.mov (reg 2) (reg 4)) = false := by decide

theorem test_wellFormed_third_operand :
    Instr.wellFormed 255 4 (.add (reg 2) (reg 2) (lit 256)) = false := by decide

theorem test_wellFormed_badKind_loads :
    Instr.wellFormed 255 4 (.add (reg 2) ⟨.unknown2, 999⟩ ⟨.unknown3, 999⟩) = true := by decide

/-! Decoding: every constructor, from a record written out bit by bit from R95 and R104. -/

/-- LOD, STR, IMM, MOV, NOP, CPY, LLOD, LSTR (R95, R104). -/
theorem test_decode_data_movement :
    decode 0x0000000000000001000000000502 = .ok (.lod ⟨.reg, 0⟩ ⟨.reg, 1⟩) ∧
    decode 0x0000000000000004000000010703 = .ok (.str ⟨.unknown3, 1⟩ ⟨.reg, 4⟩) ∧
    decode 0x0000000000000001000000000506 = .ok (.imm ⟨.reg, 0⟩ ⟨.reg, 1⟩) ∧
    decode 0x0000000000000005800000010409 = .ok (.mov ⟨.imm, 0x80000001⟩ ⟨.reg, 5⟩) ∧
    decode 0x000000000000000000000000000A = .ok (.nop) ∧
    decode 0x0000000000000005800000010425 = .ok (.cpy ⟨.imm, 0x80000001⟩ ⟨.reg, 5⟩) ∧
    decode 0x7FFFFFFF00000004000000011737 = .ok (.llod ⟨.unknown3, 1⟩ ⟨.reg, 4⟩ ⟨.reg, 0x7FFFFFFF⟩) ∧
    decode 0x00000003FFFFFFFF000000021138 = .ok (.lstr ⟨.reg, 2⟩ ⟨.imm, 0xFFFFFFFF⟩ ⟨.reg, 3⟩) :=
  by decide

/-- ADD, RSH, NOR, SUB, LSH, INC, DEC, NEG, AND, OR, NOT, XNOR (R95, R104). -/
theorem test_decode_alu_1 :
    decode 0x00000003FFFFFFFF000000021100 = .ok (.add ⟨.reg, 2⟩ ⟨.imm, 0xFFFFFFFF⟩ ⟨.reg, 3⟩) ∧
    decode 0x0000000000000005800000010401 = .ok (.rsh ⟨.imm, 0x80000001⟩ ⟨.reg, 5⟩) ∧
    decode 0x0000000700000005800000012405 = .ok (.nor ⟨.imm, 0x80000001⟩ ⟨.reg, 5⟩ ⟨.unknown2, 7⟩) ∧
    decode 0x7FFFFFFF00000004000000011707 = .ok (.sub ⟨.unknown3, 1⟩ ⟨.reg, 4⟩ ⟨.reg, 0x7FFFFFFF⟩) ∧
    decode 0x000000000000000400000001070B = .ok (.lsh ⟨.unknown3, 1⟩ ⟨.reg, 4⟩) ∧
    decode 0x00000000FFFFFFFF00000002010C = .ok (.inc ⟨.reg, 2⟩ ⟨.imm, 0xFFFFFFFF⟩) ∧
    decode 0x000000000000000580000001040D = .ok (.dec ⟨.imm, 0x80000001⟩ ⟨.reg, 5⟩) ∧
    decode 0x000000000000000100000000050E = .ok (.neg ⟨.reg, 0⟩ ⟨.reg, 1⟩) ∧
    decode 0x7FFFFFFF0000000400000001170F = .ok (.and ⟨.unknown3, 1⟩ ⟨.reg, 4⟩ ⟨.reg, 0x7FFFFFFF⟩) ∧
    decode 0x00000003FFFFFFFF000000021110 = .ok (.or ⟨.reg, 2⟩ ⟨.imm, 0xFFFFFFFF⟩ ⟨.reg, 3⟩) ∧
    decode 0x0000000000000005800000010411 = .ok (.not ⟨.imm, 0x80000001⟩ ⟨.reg, 5⟩) ∧
    decode 0x1234567800000001000000000512 = .ok (.xnor ⟨.reg, 0⟩ ⟨.reg, 1⟩ ⟨.imm, 0x12345678⟩) :=
  by decide

/-- XOR, NAND, MLT, DIV, MOD, BSR, BSL, SRS, BSS, SETE, SETNE, SETG (R95, R104). -/
theorem test_decode_alu_2 :
    decode 0x7FFFFFFF00000004000000011713 = .ok (.xor ⟨.unknown3, 1⟩ ⟨.reg, 4⟩ ⟨.reg, 0x7FFFFFFF⟩) ∧
    decode 0x00000003FFFFFFFF000000021114 = .ok (.nand ⟨.reg, 2⟩ ⟨.imm, 0xFFFFFFFF⟩ ⟨.reg, 3⟩) ∧
    decode 0x00000003FFFFFFFF000000021128 = .ok (.mlt ⟨.reg, 2⟩ ⟨.imm, 0xFFFFFFFF⟩ ⟨.reg, 3⟩) ∧
    decode 0x0000000700000005800000012429 = .ok (.div ⟨.imm, 0x80000001⟩ ⟨.reg, 5⟩ ⟨.unknown2, 7⟩) ∧
    decode 0x123456780000000100000000052A = .ok (.mod ⟨.reg, 0⟩ ⟨.reg, 1⟩ ⟨.imm, 0x12345678⟩) ∧
    decode 0x7FFFFFFF0000000400000001172B = .ok (.bsr ⟨.unknown3, 1⟩ ⟨.reg, 4⟩ ⟨.reg, 0x7FFFFFFF⟩) ∧
    decode 0x00000003FFFFFFFF00000002112C = .ok (.bsl ⟨.reg, 2⟩ ⟨.imm, 0xFFFFFFFF⟩ ⟨.reg, 3⟩) ∧
    decode 0x000000000000000580000001042D = .ok (.srs ⟨.imm, 0x80000001⟩ ⟨.reg, 5⟩) ∧
    decode 0x123456780000000100000000052E = .ok (.bss ⟨.reg, 0⟩ ⟨.reg, 1⟩ ⟨.imm, 0x12345678⟩) ∧
    decode 0x7FFFFFFF0000000400000001172F = .ok (.sete ⟨.unknown3, 1⟩ ⟨.reg, 4⟩ ⟨.reg, 0x7FFFFFFF⟩) ∧
    decode 0x00000003FFFFFFFF000000021130 = .ok (.setne ⟨.reg, 2⟩ ⟨.imm, 0xFFFFFFFF⟩ ⟨.reg, 3⟩) ∧
    decode 0x0000000700000005800000012431 = .ok (.setg ⟨.imm, 0x80000001⟩ ⟨.reg, 5⟩ ⟨.unknown2, 7⟩) :=
  by decide

/-- SETL, SETGE, SETLE, SETC, SETNC, SDIV, SSETL, SSETG, SSETLE, SSETGE, ABS (R95, R104). -/
theorem test_decode_alu_3 :
    decode 0x1234567800000001000000000532 = .ok (.setl ⟨.reg, 0⟩ ⟨.reg, 1⟩ ⟨.imm, 0x12345678⟩) ∧
    decode 0x7FFFFFFF00000004000000011733 = .ok (.setge ⟨.unknown3, 1⟩ ⟨.reg, 4⟩ ⟨.reg, 0x7FFFFFFF⟩) ∧
    decode 0x00000003FFFFFFFF000000021134 = .ok (.setle ⟨.reg, 2⟩ ⟨.imm, 0xFFFFFFFF⟩ ⟨.reg, 3⟩) ∧
    decode 0x0000000700000005800000012435 = .ok (.setc ⟨.imm, 0x80000001⟩ ⟨.reg, 5⟩ ⟨.unknown2, 7⟩) ∧
    decode 0x1234567800000001000000000536 = .ok (.setnc ⟨.reg, 0⟩ ⟨.reg, 1⟩ ⟨.imm, 0x12345678⟩) ∧
    decode 0x0000000700000005800000012439 = .ok (.sdiv ⟨.imm, 0x80000001⟩ ⟨.reg, 5⟩ ⟨.unknown2, 7⟩) ∧
    decode 0x123456780000000100000000053E = .ok (.ssetl ⟨.reg, 0⟩ ⟨.reg, 1⟩ ⟨.imm, 0x12345678⟩) ∧
    decode 0x7FFFFFFF0000000400000001173F = .ok (.ssetg ⟨.unknown3, 1⟩ ⟨.reg, 4⟩ ⟨.reg, 0x7FFFFFFF⟩) ∧
    decode 0x00000003FFFFFFFF000000021140 = .ok (.ssetle ⟨.reg, 2⟩ ⟨.imm, 0xFFFFFFFF⟩ ⟨.reg, 3⟩) ∧
    decode 0x0000000700000005800000012441 = .ok (.ssetge ⟨.imm, 0x80000001⟩ ⟨.reg, 5⟩ ⟨.unknown2, 7⟩) ∧
    decode 0x0000000000000001000000000542 = .ok (.abs ⟨.reg, 0⟩ ⟨.reg, 1⟩) := by decide

/-- BGE, JMP, BRL, BRG, BRE, BNE, BOD, BEV, BLE, BRZ, BNZ, BRN (R95, R104). -/
theorem test_decode_control_1 :
    decode 0x00000003FFFFFFFF000000021104 = .ok (.bge ⟨.reg, 2⟩ ⟨.imm, 0xFFFFFFFF⟩ ⟨.reg, 3⟩) ∧
    decode 0x0000000000000000000000020108 = .ok (.jmp ⟨.reg, 2⟩) ∧
    decode 0x0000000700000005800000012415 = .ok (.brl ⟨.imm, 0x80000001⟩ ⟨.reg, 5⟩ ⟨.unknown2, 7⟩) ∧
    decode 0x1234567800000001000000000516 = .ok (.brg ⟨.reg, 0⟩ ⟨.reg, 1⟩ ⟨.imm, 0x12345678⟩) ∧
    decode 0x7FFFFFFF00000004000000011717 = .ok (.bre ⟨.unknown3, 1⟩ ⟨.reg, 4⟩ ⟨.reg, 0x7FFFFFFF⟩) ∧
    decode 0x00000003FFFFFFFF000000021118 = .ok (.bne ⟨.reg, 2⟩ ⟨.imm, 0xFFFFFFFF⟩ ⟨.reg, 3⟩) ∧
    decode 0x0000000000000005800000010419 = .ok (.bod ⟨.imm, 0x80000001⟩ ⟨.reg, 5⟩) ∧
    decode 0x000000000000000100000000051A = .ok (.bev ⟨.reg, 0⟩ ⟨.reg, 1⟩) ∧
    decode 0x7FFFFFFF0000000400000001171B = .ok (.ble ⟨.unknown3, 1⟩ ⟨.reg, 4⟩ ⟨.reg, 0x7FFFFFFF⟩) ∧
    decode 0x00000000FFFFFFFF00000002011C = .ok (.brz ⟨.reg, 2⟩ ⟨.imm, 0xFFFFFFFF⟩) ∧
    decode 0x000000000000000580000001041D = .ok (.bnz ⟨.imm, 0x80000001⟩ ⟨.reg, 5⟩) ∧
    decode 0x000000000000000100000000051E = .ok (.brn ⟨.reg, 0⟩ ⟨.reg, 1⟩) := by decide

/-- BRP, CAL, RET, HLT, BRC, BNC, SBRL, SBRG, SBLE, SBGE (R95, R104). -/
theorem test_decode_control_2 :
    decode 0x000000000000000400000001071F = .ok (.brp ⟨.unknown3, 1⟩ ⟨.reg, 4⟩) ∧
    decode 0x0000000000000000000000000122 = .ok (.cal ⟨.reg, 0⟩) ∧
    decode 0x0000000000000000000000000023 = .ok (.ret) ∧
    decode 0x0000000000000000000000000024 = .ok (.hlt) ∧
    decode 0x1234567800000001000000000526 = .ok (.brc ⟨.reg, 0⟩ ⟨.reg, 1⟩ ⟨.imm, 0x12345678⟩) ∧
    decode 0x7FFFFFFF00000004000000011727 = .ok (.bnc ⟨.unknown3, 1⟩ ⟨.reg, 4⟩ ⟨.reg, 0x7FFFFFFF⟩) ∧
    decode 0x123456780000000100000000053A = .ok (.sbrl ⟨.reg, 0⟩ ⟨.reg, 1⟩ ⟨.imm, 0x12345678⟩) ∧
    decode 0x7FFFFFFF0000000400000001173B = .ok (.sbrg ⟨.unknown3, 1⟩ ⟨.reg, 4⟩ ⟨.reg, 0x7FFFFFFF⟩) ∧
    decode 0x00000003FFFFFFFF00000002113C = .ok (.sble ⟨.reg, 2⟩ ⟨.imm, 0xFFFFFFFF⟩ ⟨.reg, 3⟩) ∧
    decode 0x000000070000000580000001243D = .ok (.sbge ⟨.imm, 0x80000001⟩ ⟨.reg, 5⟩ ⟨.unknown2, 7⟩) :=
  by decide

/-- PSH, POP (R95, R104). -/
theorem test_decode_stack :
    decode 0x0000000000000000000000020120 = .ok (.psh ⟨.reg, 2⟩) ∧
    decode 0x0000000000000000800000010021 = .ok (.pop ⟨.imm, 0x80000001⟩) := by decide

/-- IN, OUT (R95, R104). -/
theorem test_decode_io :
    decode 0x0000000000000004000000010743 = .ok (.inPort ⟨.unknown3, 1⟩ ⟨.reg, 4⟩) ∧
    decode 0x00000000FFFFFFFF000000020144 = .ok (.outPort ⟨.reg, 2⟩ ⟨.imm, 0xFFFFFFFF⟩) := by decide
/-- V3: records the spec itself writes out. -/
theorem test_decode_spec_words :
    decode 0x0000000000000003000000020509 = .ok (.mov r0 r1) ∧
    decode 0x0000000000000000000000030008 = .ok (.jmp (lit 3)) ∧
    decode 0x0000000000000000000000000121 = .ok (.pop pcR) ∧
    decode 0x0000000400000003000000021538 = .ok (.lstr r0 r1 r2) ∧
    decode 0x0000000400000003000000021537 = .ok (.llod r0 r1 r2) ∧
    decode 0x0000000200000002000000030539 = .ok (.sdiv r1 r0 (lit 2)) := by decide

/-- R102, V2: reserved bits, unused slots and unassigned opcodes are rejected by name. -/
theorem test_decode_rejects :
    decode 0x4024 = .error .reservedBits ∧
    decode 0x1000A = .error .unusedSlot ∧
    decode 0x0000000100000000000000000006 = .error .unusedSlot ∧
    decode 0x1006 = .error .unusedSlot ∧
    decode 0x45 = .error .unknownOpcode ∧
    decode 0xFF = .error .unknownOpcode := by decide

/-- V3, P3, P4: the encoder gives the words the spec writes out. -/
theorem test_encode :
    encode (.imm r0 (lit 5)) = 0x0000000000000005000000020106 ∧
    encode (.psh spR) = 0x0000000000000000000000010120 ∧
    encode (.brl (lit 2) r0 (lit 4)) = 0x0000000400000002000000020415 ∧
    encode .ret = 0x23 := by decide

theorem test_decodeTableWord :
    decodeTableWord 112 0x0000000200000002000000021500 = some (.add r0 r0 r0) ∧
    decodeTableWord 16 0x0000000200000002000000020106 = some (.imm ⟨.reg, 0⟩ (lit 0)) ∧
    decodeTableWord 112 0x45 = none := by decide

/-! Data movement: V5, E7. -/

theorem test_imm :
    regAfter 2 (exec (.imm r0 (lit 5)) (m8 0 9 0)) = some 5 ∧
    regAfter 2 (exec (.imm r0 r1) (m8 0 9 0)) = some 9 ∧
    regAfter 2 (exec (.imm r0 pcR) (m8 0 9 0)) = some 11 := by decide

/-- V4 row 7: an Imm destination discards. -/
theorem test_imm_discard :
    (after (exec (.imm (lit 7) (lit 9)) (m8 1 2 3))).map (fun t => t.regs) = some [11, 32, 1, 2, 3] := by
  decide

theorem test_mov :
    regAfter 2 (exec (.mov r0 r1) (m8 0 200 0)) = some 200 ∧
    regAfter 1 (exec (.mov spR (lit 3)) (m8 0 0 0)) = some 3 := by decide

theorem test_nop : after (exec .nop (m8 1 2 3)) = some { m8 1 2 3 with regs := [11, 32, 1, 2, 3] } := by
  decide

theorem test_lod :
    regAfter 2 (exec (.lod r0 r0) (m8at 32 4 0 0 [(4, 9)])) = some 9 ∧
    faultAfter (exec (.lod r0 r1) (m8 0 32 0)) = some (.loadOutOfBounds, 32, .load, 10) := by decide

theorem test_str :
    wordAfter 10 (exec (.str r0 r1) (m8 10 77 0)) = some 77 ∧
    faultAfter (exec (.str (lit 32) (lit 1)) (m8 0 0 0)) = some (.storeOutOfBounds, 32, .store, 10) := by
  decide

theorem test_cpy :
    wordAfter 7 (exec (.cpy (lit 7) (lit 3)) (m8at 32 0 0 0 [(3, 5)])) = some 5 ∧
    faultAfter (exec (.cpy (lit 40) (lit 50)) (m8 0 0 0)) = some (.loadOutOfBounds, 50, .load, 10) := by
  decide

theorem test_llod :
    regAfter 2 (exec (.llod r0 r1 r2) (m8at 32 0 10 2 [(12, 4)])) = some 4 ∧
    faultAfter (exec (.llod r0 r1 r2) (m8 0 255 1)) = some (.loadOutOfBounds, 256, .load, 10) := by decide

theorem test_lstr :
    wordAfter 23 (exec (.lstr r0 r1 r2) (m8 20 3 9)) = some 9 ∧
    faultAfter (exec (.lstr r0 r1 r2) (m8 30 2 9)) = some (.storeOutOfBounds, 32, .store, 10) := by decide

/-! The ALU at W = 8: V6. -/

theorem test_add :
    alu2 .add 0xC8 0x64 = some 0x2C ∧
    alu2 .add 0xFF 0x01 = some 0x00 ∧
    alu2 .add 0x00 0x00 = some 0x00 := by decide

theorem test_sub :
    alu2 .sub 0x05 0x07 = some 0xFE ∧
    alu2 .sub 0x00 0x01 = some 0xFF ∧
    alu2 .sub 0x09 0x09 = some 0x00 := by decide

theorem test_inc :
    alu1 .inc 0xFF = some 0x00 ∧
    alu1 .inc 0x07 = some 0x08 := by decide

theorem test_dec :
    alu1 .dec 0x00 = some 0xFF ∧
    alu1 .dec 0x07 = some 0x06 := by decide

theorem test_neg :
    alu1 .neg 0x01 = some 0xFF ∧
    alu1 .neg 0x00 = some 0x00 ∧
    alu1 .neg 0x80 = some 0x80 := by decide

theorem test_mlt :
    alu2 .mlt 0x10 0x11 = some 0x10 ∧
    alu2 .mlt 0xFF 0xFF = some 0x01 ∧
    alu2 .mlt 0x00 0xC8 = some 0x00 := by decide

theorem test_div :
    alu2 .div 0xC8 0x07 = some 0x1C ∧
    alu2 .div 0x03 0x07 = some 0x00 ∧
    alu2 .div 0xF9 0x02 = some 0x7C ∧
    (faultAfter (exec (.div r0 r1 r2) (m8 7 0x05 0x00)) = some (.divByZero, 0, .none, 10) ∧
      regAfter 2 (exec (.div r0 r1 r2) (m8 7 0x05 0x00)) = some 7) := by decide

theorem test_mod :
    alu2 .mod 0xC8 0x07 = some 0x04 ∧
    alu2 .mod 0x03 0x07 = some 0x03 ∧
    alu2 .mod 0xF9 0x02 = some 0x01 ∧
    (faultAfter (exec (.mod r0 r1 r2) (m8 7 0x05 0x00)) = some (.divByZero, 0, .none, 10) ∧
      regAfter 2 (exec (.mod r0 r1 r2) (m8 7 0x05 0x00)) = some 7) := by decide

theorem test_sdiv :
    alu2 .sdiv 0x07 0x02 = some 0x03 ∧
    alu2 .sdiv 0xF9 0x02 = some 0xFD ∧
    alu2 .sdiv 0x07 0xFE = some 0xFD ∧
    alu2 .sdiv 0xF9 0xFE = some 0x03 ∧
    alu2 .sdiv 0x80 0xFF = some 0x80 ∧
    (faultAfter (exec (.sdiv r0 r1 r2) (m8 7 0x00 0x00)) = some (.divByZero, 0, .none, 10) ∧
      regAfter 2 (exec (.sdiv r0 r1 r2) (m8 7 0x00 0x00)) = some 7) := by decide

theorem test_abs :
    alu1 .abs 0xFF = some 0x01 ∧
    alu1 .abs 0x80 = some 0x80 ∧
    alu1 .abs 0x00 = some 0x00 ∧
    alu1 .abs 0x7F = some 0x7F := by decide

theorem test_and :
    alu2 .and 0xCA 0x0F = some 0x0A := by decide

theorem test_or :
    alu2 .or 0xC0 0x0A = some 0xCA := by decide

theorem test_xor :
    alu2 .xor 0xFF 0x0F = some 0xF0 ∧
    alu2 .xor 0x5A 0x5A = some 0x00 := by decide

theorem test_nor :
    alu2 .nor 0xF0 0x0C = some 0x03 ∧
    alu2 .nor 0x00 0x00 = some 0xFF := by decide

theorem test_nand :
    alu2 .nand 0xFF 0x0F = some 0xF0 ∧
    alu2 .nand 0xFF 0xFF = some 0x00 := by decide

theorem test_xnor :
    alu2 .xnor 0xF0 0xFF = some 0xF0 ∧
    alu2 .xnor 0x33 0x33 = some 0xFF := by decide

theorem test_not :
    alu1 .not 0x0F = some 0xF0 ∧
    alu1 .not 0x00 = some 0xFF := by decide

theorem test_lsh :
    alu1 .lsh 0x81 = some 0x02 ∧
    alu1 .lsh 0x80 = some 0x00 := by decide

theorem test_rsh :
    alu1 .rsh 0x81 = some 0x40 ∧
    alu1 .rsh 0x01 = some 0x00 := by decide

theorem test_bsl :
    alu2 .bsl 0x03 0x04 = some 0x30 ∧
    alu2 .bsl 0x01 0x07 = some 0x80 ∧
    alu2 .bsl 0x01 0x08 = some 0x00 ∧
    alu2 .bsl 0xFF 0xC8 = some 0x00 := by decide

theorem test_bsr :
    alu2 .bsr 0xF0 0x04 = some 0x0F ∧
    alu2 .bsr 0xFF 0x08 = some 0x00 ∧
    alu2 .bsr 0xFF 0x00 = some 0xFF := by decide

theorem test_srs :
    alu1 .srs 0x80 = some 0xC0 ∧
    alu1 .srs 0x7F = some 0x3F ∧
    alu1 .srs 0xFF = some 0xFF := by decide

theorem test_bss :
    alu2 .bss 0x90 0x02 = some 0xE4 ∧
    alu2 .bss 0x80 0x07 = some 0xFF ∧
    alu2 .bss 0x80 0x08 = some 0xFF ∧
    alu2 .bss 0x80 0xFF = some 0xFF ∧
    alu2 .bss 0x7F 0x08 = some 0x00 := by decide

theorem test_sete :
    alu2 .sete 0x04 0x04 = some 0xFF ∧
    alu2 .sete 0x04 0x05 = some 0x00 := by decide

theorem test_setne :
    alu2 .setne 0x04 0x05 = some 0xFF ∧
    alu2 .setne 0x04 0x04 = some 0x00 := by decide

theorem test_setg :
    alu2 .setg 0x09 0x03 = some 0xFF ∧
    alu2 .setg 0x80 0x7F = some 0xFF := by decide

theorem test_setl :
    alu2 .setl 0x03 0x09 = some 0xFF ∧
    alu2 .setl 0x09 0x09 = some 0x00 := by decide

theorem test_setge :
    alu2 .setge 0x09 0x09 = some 0xFF ∧
    alu2 .setge 0x03 0x09 = some 0x00 := by decide

theorem test_setle :
    alu2 .setle 0x0A 0x09 = some 0x00 ∧
    alu2 .setle 0x09 0x09 = some 0xFF := by decide

theorem test_setc :
    alu2 .setc 0xC8 0x64 = some 0xFF ∧
    alu2 .setc 0xFF 0x00 = some 0x00 ∧
    alu2 .setc 0xFF 0x01 = some 0xFF := by decide

theorem test_setnc :
    alu2 .setnc 0x64 0x64 = some 0xFF ∧
    alu2 .setnc 0xC8 0x38 = some 0x00 := by decide

theorem test_ssetl :
    alu2 .ssetl 0x80 0x7F = some 0xFF ∧
    alu2 .ssetl 0xFF 0x00 = some 0xFF := by decide

theorem test_ssetg :
    alu2 .ssetg 0x00 0xFF = some 0xFF ∧
    alu2 .ssetg 0x80 0x7F = some 0x00 := by decide

theorem test_ssetle :
    alu2 .ssetle 0x80 0x80 = some 0xFF ∧
    alu2 .ssetle 0x01 0xFF = some 0x00 := by decide

theorem test_ssetge :
    alu2 .ssetge 0x7F 0x80 = some 0xFF ∧
    alu2 .ssetge 0xFF 0x00 = some 0x00 := by decide

/-- V7: the machines of its rows at W = 32 and W = 16. -/
def at32 : State :=
  { m8 0 0 0 with
    cfg := { cfg8 with w := .w32, m := 0xFFFFFFFF, sign := 0x80000000, smax := 0x7FFFFFFF } }
def at16 : State :=
  { m8 0 0 0 with cfg := { cfg8 with w := .w16, m := 0xFFFF, sign := 0x8000, smax := 0x7FFF } }

theorem test_w32 :
    regAfter 2 (exec (.mlt r0 (lit 0x075BCD15) (lit 0x3ADE68B1)) at32) = some 0xFBFF5385 ∧
    regAfter 2 (exec (.srs r0 (lit 0x80000000)) at32) = some 0xC0000000 ∧
    regAfter 2 (exec (.bsl r0 (lit 1) (lit 32)) at32) = some 0 ∧
    regAfter 2 (exec (.setc r0 (lit 0xFFFFFFFF) (lit 1)) at32) = some 0xFFFFFFFF ∧
    regAfter 2 (exec (.div r0 (lit 0xFFFFFFFF) (lit 3)) at32) = some 0x55555555 := by decide

theorem test_w16 :
    regAfter 2 (exec (.not r0 (lit 0x000F)) at16) = some 0xFFF0 ∧
    regAfter 2 (exec (.bss r0 (lit 0x8000) (lit 15)) at16) = some 0xFFFF ∧
    regAfter 2 (exec (.mlt r0 (lit 0x0101) (lit 0x0101)) at16) = some 0x0201 ∧
    regAfter 0 (exec (.brn (lit 3) (lit 0x0080)) at16) = some 11 := by decide

/-! Control transfer: V8. -/

theorem test_jmp :
    regAfter 0 (exec (.jmp (lit 200)) (m8 0 0 0)) = some 200 ∧
    regAfter 0 (exec (.jmp pcR) (m8 0 0 0)) = some 11 := by decide

theorem test_bge :
    br2 .bge 5 5 = some 3 ∧ br2 .bge 4 5 = some 11 := by decide

theorem test_brl :
    br2 .brl 4 5 = some 3 ∧ br2 .brl 0x80 0x7F = some 11 := by decide

theorem test_brg :
    br2 .brg 0x80 0x7F = some 3 ∧ br2 .brg 5 5 = some 11 := by decide

theorem test_ble :
    br2 .ble 5 5 = some 3 ∧ br2 .ble 6 5 = some 11 := by decide

theorem test_bre :
    br2 .bre 7 7 = some 3 ∧ br2 .bre 7 8 = some 11 := by decide

theorem test_bne :
    br2 .bne 7 8 = some 3 ∧ br2 .bne 7 7 = some 11 := by decide

theorem test_brz :
    br1 .brz 0 = some 3 ∧ br1 .brz 1 = some 11 := by decide

theorem test_bnz :
    br1 .bnz 1 = some 3 ∧ br1 .bnz 0 = some 11 := by decide

theorem test_brn :
    br1 .brn 0xFF = some 3 ∧ br1 .brn 0x7F = some 11 := by decide

theorem test_brp :
    br1 .brp 0x7F = some 3 ∧ br1 .brp 0 = some 3 ∧ br1 .brp 0x80 = some 11 := by decide

theorem test_bod :
    br1 .bod 5 = some 3 ∧ br1 .bod 4 = some 11 := by decide

theorem test_bev :
    br1 .bev 0 = some 3 ∧ br1 .bev 5 = some 11 := by decide

theorem test_brc :
    br2 .brc 200 100 = some 3 ∧ br2 .brc 200 55 = some 11 := by decide

theorem test_bnc :
    br2 .bnc 200 55 = some 3 ∧ br2 .bnc 200 56 = some 11 := by decide

theorem test_sbrl :
    br2 .sbrl 0x80 0x7F = some 3 ∧ br2 .sbrl 0x7F 0x80 = some 11 := by decide

theorem test_sbrg :
    br2 .sbrg 0 0xFF = some 3 ∧ br2 .sbrg 0xFF 0 = some 11 := by decide

theorem test_sble :
    br2 .sble 0xFF 0xFF = some 3 ∧ br2 .sble 0 0xFF = some 11 := by decide

theorem test_sbge :
    br2 .sbge 0x7F 0x80 = some 3 ∧ br2 .sbge 0x80 0x7F = some 11 := by decide

theorem test_cal :
    (after (exec (.cal (lit 3)) (m8 0 0 0))).map (fun t => (t.regAt 0, t.regAt 1, t.mem)) =
      some (3, 31, [(31, 11)]) ∧
    faultAfter (exec (.cal (lit 3)) (m8at 24 0 0 0 [])) = some (.stackOverflow, 0, .none, 10) := by decide

theorem test_ret :
    (after (exec .ret (m8at 31 0 0 0 [(31, 7)]))).map (fun t => (t.regAt 0, t.regAt 1)) = some (7, 32) ∧
    faultAfter (exec .ret (m8 0 0 0)) = some (.stackUnderflow, 0, .none, 10) := by decide

/-- E8: HLT halts with the PC advanced and nothing else changed. -/
theorem test_hlt :
    after (exec .hlt (m8 1 2 3)) =
      some { m8 1 2 3 with status := .halted, regs := [11, 32, 1, 2, 3] } := by decide

/-! Stack: V9, E6, V11. -/

theorem test_psh :
    (after (exec (.psh spR) (m8 0 0 0))).map (fun t => (t.regAt 1, t.mem)) = some (31, [(31, 32)]) ∧
    (after (exec (.psh (lit 1)) (m8at 25 0 0 0 []))).map (fun t => (t.regAt 1, t.mem)) =
      some (24, [(24, 1)]) := by decide

theorem test_psh_faults :
    faultAfter (exec (.psh (lit 1)) (m8at 24 0 0 0 [])) = some (.stackOverflow, 0, .none, 10) ∧
    faultAfter (exec (.psh (lit 9)) (m8at 34 0 0 0 [])) = some (.storeOutOfBounds, 33, .store, 10) ∧
    regAfter 1 (exec (.psh (lit 9)) (m8at 34 0 0 0 [])) = some 33 := by decide

theorem test_pop :
    (after (exec (.pop r1) (m8at 31 0 0 0 [(31, 3)]))).map (fun t => (t.regAt 3, t.regAt 1)) =
      some (3, 32) ∧
    regAfter 1 (exec (.pop spR) (m8at 30 0 0 0 [(30, 5)])) = some 5 ∧
    (after (exec (.pop pcR) (m8at 31 0 0 0 [(31, 7)]))).map (fun t => (t.regAt 0, t.regAt 1)) =
      some (7, 32) := by decide

theorem test_pop_faults :
    faultAfter (exec (.pop bad3) (m8 0 0 0)) = some (.stackUnderflow, 0, .none, 10) ∧
    faultAfter (exec (.pop bad3) (m8at 31 0 0 0 [])) = some (.badOperandKind, 0, .none, 10) ∧
    regAfter 1 (exec (.pop bad3) (m8at 31 0 0 0 [])) = some 32 := by decide

/-- V11: the first fault in the step's order is the one reported. -/
theorem test_fault_priority :
    faultAfter (exec (.lod r0 bad2) (m8 0 0 0)) = some (.badOperandKind, 0, .none, 10) ∧
    faultAfter (exec (.div bad3 r1 (lit 0)) (m8 0 0 0)) = some (.divByZero, 0, .none, 10) := by decide

/-! Input and output: V10, E9. -/

/-- Port 7 bound to device 1 in both maps, with an input script. -/
def bound7 (script : List InputAnswer) : State :=
  { m8 3 0 0 with
    registry := { inMap := [(7, 1)], outMap := [(7, 1)], resetList := [] }
    oracle := { script := script, draws := 0 } }

theorem test_in :
    regAfter 2 (exec (.inPort r0 (lit 7)) (bound7 [.value 42, .pending])) = some 42 ∧
    regAfter 2 (exec (.inPort r0 (lit 7)) (bound7 [.value 300])) = some 44 ∧
    (after (exec (.inPort r0 (lit 8)) (bound7 [.value 42]))).map
        (fun t => (t.regAt 2, t.diagnostics, t.oracle.script)) =
      some (0, [.warn .unboundInput 8], [.value 42]) := by decide

theorem test_in_pending :
    after (exec (.inPort r0 (lit 7)) (bound7 [.pending])) =
      some { bound7 [] with
        status := .awaitingInput
        regs := [11, 32, 3, 0, 0]
        pending := { valid := true, kind := .reg, value := 2, index := 10 } } := by decide

theorem test_out :
    (after (exec (.outPort (lit 7) r0) (bound7 []))).map (fun t => (t.output, t.diagnostics)) =
      some ([.out 7 3], []) ∧
    (after (exec (.outPort (lit 2) (lit 5)) (bound7 []))).map (fun t => (t.output, t.diagnostics)) =
      some ([], [.warn .unboundOutput 2]) := by decide

/-- The machine of V10 row 4, its IN suspended on r0, or on another operand. -/
def suspended (dst : Operand) : State :=
  { bound7 [] with
    status := .awaitingInput
    pending := { valid := true, kind := dst.kind, value := dst.value, index := 9 } }

/-- V10 rows 5, 6, 14; R297 for a destination of an unrecognised kind. -/
theorem test_finish_pending_input :
    (after (finishPendingInput 300 (suspended r0))).map (fun t => (t.regAt 2, t.status, t.pending.valid)) =
      some (44, .ready, false) ∧
    after (finishPendingInput 10 (bound7 [])) = some (bound7 []) ∧
    (after (finishPendingInput 9 (suspended (lit 4)))).map (fun t => (t.regs, t.status)) =
      some ([10, 32, 3, 0, 0], .ready) ∧
    faultAfter (finishPendingInput 9 (suspended bad2)) = some (.badOperandKind, 0, .none, 9) := by decide

def deviceA : Device := { id := 1, inputs := [7], outputs := [], resetHook := true }
def deviceB : Device := { id := 2, inputs := [7], outputs := [7], resetHook := true }

/-- V10 rows 11 and 12: the last writer wins, and the reset hooks run in registration order. -/
theorem test_register_device :
    boundDevice (registerDevice deviceB (registerDevice deviceA State.reset)).registry.inMap 7 = some 2 ∧
    (hostReset (registerDevice deviceB (registerDevice deviceA State.reset))).output =
      [.reset 0, .reset 1] := by decide

/-! Load, reset and the step: V1, V2, V4, V12, E4, E8. -/

def headers (bits minreg heap stack : Nat) (run : Option RunMode) : Headers :=
  { bits := some bits, minheap := some heap, minstack := some stack, minreg := some minreg, run := run
    others := [] }

def loadErrOf (h : Headers) (static : List Nat) (code : List CodeItem) : LoadErr :=
  (hostLoad { code := code, headers := h, static := static } State.reset).loadErr

theorem test_load_width :
    loadErrOf (headers 0 0 0 0 (some .rom)) [] [] = .bitsOutOfRange ∧
    loadErrOf (headers 33 0 0 0 (some .rom)) [] [] = .bitsOutOfRange ∧
    (hostLoad { code := [], headers := headers 1 0 0 0 (some .rom), static := [] } State.reset).cfg.w = .w8 ∧
    (hostLoad { code := [], headers := headers 9 0 0 0 (some .rom), static := [] } State.reset).cfg.w =
      .w16 ∧
    (hostLoad { code := [], headers := headers 32 0 0 0 (some .rom), static := [] } State.reset).cfg.w =
      .w32 := by decide

theorem test_load_sizes :
    loadErrOf (headers 8 253 0 0 (some .rom)) [] [] = .none ∧
    loadErrOf (headers 8 254 0 0 (some .rom)) [] [] = .registerCountTooLarge ∧
    loadErrOf (headers 8 2 100 150 (some .rom)) [1, 2, 3, 4, 5] [] = .none ∧
    loadErrOf (headers 8 2 100 151 (some .rom)) [1, 2, 3, 4, 5] [] = .memorySizeTooLarge := by decide

theorem test_load_order :
    loadErrOf (headers 40 0 0 0 none) [] [] = .missingHeader ∧
    loadErrOf (headers 40 0 0 0 (some .ram)) [] [] = .unsupportedRunMode ∧
    loadErrOf (headers 8 0 0 0 (some (.other "FLASH"))) [] [] = .unsupportedRunMode := by decide

theorem test_load_instructions :
    loadErrOf (headers 8 2 0 0 (some .rom)) [] [.packed 0x0000000000000100000000020106] =
      .malformedInstruction ∧
    loadErrOf (headers 8 2 0 0 (some .rom)) [] [.packed 0x0000000000000004000000020509] =
      .malformedInstruction ∧
    loadErrOf (headers 8 2 0 0 (some .rom)) [] [.fields 0x00 [1, 1] [2, 2]] = .malformedInstruction ∧
    loadErrOf (headers 8 2 0 0 (some .rom)) [] [.packed 0x4024] = .malformedInstruction ∧
    loadErrOf (headers 8 2 0 0 (some .rom)) [] [.packed 0x1000A] = .malformedInstruction ∧
    loadErrOf (headers 8 2 0 0 (some .rom)) [] [.packed 0xFFFF45, .fields 0x09 [2, 1] [999, 3]] = .none := by
  decide

/-- R301, with the number 95_test_vectors.md takes for illustration: PORTS is injective, its numbers in
[0, M], and a name outside it has none. -/
theorem test_ports :
    let ports : Config.Ports := { entries := [("NUMB", 2), ("TEXT", 255)] }
    ports.wf 255 ∧ ports.number "NUMB" = some 2 ∧ ports.number "HEX" = none ∧ ¬ ports.wf 254 ∧
    ¬ Config.Ports.wf { entries := [("NUMB", 2), ("TEXT", 2)] } 255 := by decide

/-- R90, V3: MOV r0, r1 given as opcode, kinds and values is stored as its packed word, and a packed HLT as
itself. -/
def programFields : Program :=
  { code := [.fields 0x09 [1, 1] [2, 3], .packed 0x24], headers := headers 8 2 0 0 (some .rom), static := [] }
theorem test_load_fields :
    (hostLoad programFields State.reset).prog.code = [0x0000000000000003000000020509, 0x24] := by decide

/-- The machine after the load of program P3 of 95_test_vectors.md. -/
def program3 : Program :=
  { code :=
      [.packed 0x0000000000000000000000020106, .packed 0x0000000000000000000000030106,
        .packed 0x0000000000000002000000040502, .packed 0x0000000400000003000000031500,
        .packed 0x000000000000000200000002050C, .packed 0x0000000400000002000000020415,
        .packed 0x0000000000000003000000040403, .packed 0x0000000000000000000000000024]
    headers := headers 8 3 2 2 (some .rom)
    static := [10, 20, 30, 250] }
def p3 : State := hostLoad program3 State.reset

/-- P3's start state. -/
theorem test_load_p3 :
    p3.readRegisters = [0, 8, 0, 0, 0] ∧ p3.readMemory = [10, 20, 30, 250, 0, 0, 0, 0] ∧
    p3.hsb = 6 ∧ p3.cfg.plen = 8 ∧ p3.status = .ready := by decide

/-- P3 with the PC, the status and r0 given. -/
def p3at (pc a : Word) (st : Status) : State := { p3 with regs := [pc, 8, a, 0, 0], status := st }

/-- P3's LOD at index 2 with r0 = 3, and its HLT at index 7. -/
theorem test_step :
    regAfter 4 (step (p3at 2 3 .ready)) = some 250 ∧
    regAfter 0 (step (p3at 7 0 .ready)) = some 8 ∧
    statusAfter (step (p3at 7 0 .ready)) = some .halted ∧
    regAfter 2 (step (p3at 4 6 .halted)) = some 7 := by decide

/-- V4 rows 8 and 10 to 12: the PC wraps when halting past the end, and the refused calls. -/
theorem test_step_refusals :
    regAfter 0 (step (p3at 255 0 .ready)) = some 0 ∧
    statusAfter (step (p3at 255 0 .ready)) = some .halted ∧
    refusalOf (step (p3at 0 0 .awaitingInput)) = some (.callRefused .awaitingInput) ∧
    refusalOf (hostRun 128 1 (p3at 0 0 .faulted)) = some (.callRefused .faulted) ∧
    refusalOf (step State.reset) = some (.callRefused .unloaded) := by decide

/-- R138, P3's end: the run ends at the `step` or `run` that returns Halted, with the registers, memory and
output there, and not after a Continue. -/
theorem test_end_of_run :
    endOfRun 128 [.step, .step] (p3at 7 4 .ready) =
      some { regs := [8, 8, 4, 0, 0], mem := [(0, 10), (1, 20), (2, 30), (3, 250)], output := [] } ∧
    endOfRun 128 [.run 1] (p3at 7 4 .ready) = endOfRun 128 [.step] (p3at 7 4 .ready) ∧
    endOfRun 128 [.step] (p3at 4 4 .ready) = none := by decide

/-- V12: reset() after P3 was at its HLT. -/
theorem test_reset :
    (hostReset (p3at 8 4 .halted)).readRegisters = [0, 8, 0, 0, 0] ∧
    (hostReset (p3at 8 4 .halted)).readMemory = [10, 20, 30, 250, 0, 0, 0, 0] ∧
    (hostReset (p3at 8 4 .halted)).status = .ready := by decide

/-- A machine whose only record, at index 0, has the unassigned opcode 0x45 and operands of kind 3. -/
def unknown45 : State :=
  hostLoad { code := [.packed 0x3F45], headers := headers 8 2 0 0 (some .rom), static := [] } State.reset

/-- V4 row 4, V11 row 1. -/
theorem test_unknown_opcode :
    faultAfter (step unknown45) = some (.unknownOpcode, 0, .none, 0) ∧
    (after (step unknown45)).map (fun t => t.fault.regs) = some [1, 0, 0, 0] := by decide

/-- A record placed by `withFetchWord` is the next one to run, from power-on and on a loaded machine. -/
theorem test_withFetchWord :
    regAfter 2 (step (State.reset.withFetchWord 112 0x0000000000000005000000020106)) = some 5 ∧
    regAfter 2 (step ((p3at 3 0 .ready).withFetchWord 112 0x0000000000000005000000020106)) = some 5 ∧
    regAfter 1 (step (State.reset.withFetchWord 112 0x0000000000000000000000030020)) = some 63 := by
  decide

/-! Witnesses: a state and operands that meet the hypotheses of each obligation. The limits of each range
are taken: the last register of the file, the largest Imm, the SP at MSIZE and one above HSB. -/

theorem cfg8_coherent : cfg8.Coherent := by constructor <;> decide

/-- The invariant as a decidable conjunction, so that a concrete state is checked by evaluation. -/
abbrev Checkable (s : State) : Prop :=
  (s.cfg.w ≠ .unset ∧ s.cfg.m.toNat = 2 ^ s.cfg.w.bits - 1 ∧
    s.cfg.sign.toNat = 2 ^ (s.cfg.w.bits - 1) ∧ s.cfg.smax.toNat = 2 ^ (s.cfg.w.bits - 1) - 1 ∧
    2 ≤ s.cfg.nreg.toNat ∧ s.cfg.nreg.toNat ≤ s.cfg.m.toNat ∧
    s.cfg.msize.toNat = s.cfg.slen.toNat + s.cfg.heap.toNat + s.cfg.stack.toNat ∧
    s.cfg.msize.toNat ≤ s.cfg.m.toNat ∧ s.cfg.hsb.toNat = s.cfg.slen.toNat + s.cfg.heap.toNat) ∧
  (s.status ≠ .unloaded ∧ s.cfg.plen = s.prog.code.length ∧
    s.cfg.slen.toNat = s.prog.static.length ∧ s.regs.length = s.cfg.nreg.toNat) ∧
  s.regs.all (fun v => decide (v.toNat < 2 ^ s.cfg.w.bits)) = true ∧ s.mem.wf ∧
  (∀ c ∈ s.mem, c.1 < s.msize ∧ c.2.toNat < 2 ^ s.cfg.w.bits) ∧
  s.prog.code.all (packedOk s.cfg.m.toNat s.cfg.nreg.toNat) = true ∧
  (s.pending.valid = true ↔ s.status = .awaitingInput) ∧
  (s.pending.valid = true → s.pending.kind = .reg → s.pending.value.toNat < s.cfg.nreg.toNat) ∧
  (s.fault.code ≠ .none ↔ s.status = .faulted) ∧ (s.status = .faulted → s.fault.regs = s.regs) ∧
  s.loadErr = .none

theorem inv_of_checkable (s : State) (h : Checkable s) : s.Inv := by
  obtain ⟨⟨a1, a2, a3, a4, a5, a6, a7, a8, a9⟩, ⟨b1, b2, b3, b4⟩, c, d, e, f, g, i, j, k, l⟩ := h
  exact ⟨fun _ => ⟨⟨a1, a2, a3, a4, a5, a6, a7, a8, a9⟩, b2, b3⟩, fun x => absurd x b1, b4,
    by simpa using c, d, e, by simpa using f, g, i, j, k, fun _ => l⟩

/-- Program P2 of 95_test_vectors.md, loaded: PSH 3, POP r1, HLT at W = 8, MSIZE = 8, HSB = 4. -/
def program2 : Program :=
  { code := [.packed 0x0000000000000000000000030020, .packed 0x0000000000000000000000030121, .packed 0x24]
    headers := headers 8 2 4 4 (some .rom)
    static := [] }
/-- P2's start state, field by field. -/
def p2 : State :=
  { State.reset with
    cfg :=
      { w := .w8, m := 255, sign := 128, smax := 127, nreg := 4, slen := 0, heap := 4, stack := 4
        msize := 8, hsb := 4, plen := 3 }
    status := .ready
    regs := [0, 8, 0, 0]
    prog :=
      { code := [0x0000000000000000000000030020, 0x0000000000000000000000030121, 0x24]
        headers := program2.headers, static := [] } }
theorem test_load_p2 : hostLoad program2 State.reset = p2 := by decide

/-- P2 with the SP one above HSB. -/
def p2low : State := { p2 with regs := [0, 5, 0, 0] }
/-- P2 suspended on its last register. -/
def p2waiting : State :=
  { p2 with status := .awaitingInput, pending := { valid := true, kind := .reg, value := 3, index := 0 } }
/-- P2 halted at its end. -/
def p2halted : State := { p2 with regs := [3, 8, 0, 0], status := .halted }
/-- P2 after a fault at index 0. -/
def p2faulted : State := raiseFault .stackOverflow 0 8 p2

theorem p2_inv : p2.Inv := inv_of_checkable _ (by decide)
theorem p2low_inv : p2low.Inv := inv_of_checkable _ (by decide)
theorem p2waiting_inv : p2waiting.Inv := inv_of_checkable _ (by decide)
theorem p2halted_inv : p2halted.Inv := inv_of_checkable _ (by decide)
theorem p2faulted_inv : p2faulted.Inv := inv_of_checkable _ (by decide)

/-- An 8-bit machine with the word 9 at address 4 and 255 at 31. -/
def w8 : State := m8at 32 4 0x80 0xFF [(4, 9), (31, 255)]

theorem witness_EncodeInvertsDecode : decode 0x0000000000000000000000030020 = .ok (.psh (lit 3)) := by
  decide

theorem witness_ReservedEncodingsRejected :
    0x45 ≤ fieldOpc 0x45 ∧ 0x45 ≤ fieldOpc 0xFF ∧
    (fieldOpc 0x4044 < 0x45 ∧ fieldRsv 0x4044 ≠ 0) ∧ (fieldOpc 0x8024 < 0x45 ∧ fieldRsv 0x8024 ≠ 0) ∧
    (fieldOpc 0x1006 < 0x45 ∧ fieldRsv 0x1006 = 0 ∧ operandCount (fieldOpc 0x1006) = some 2 ∧
      operandAt 0x1006 2 ≠ ⟨.imm, 0⟩) ∧
    (fieldOpc 0x10024 < 0x45 ∧ fieldRsv 0x10024 = 0 ∧ operandCount (fieldOpc 0x10024) = some 0 ∧
      operandAt 0x10024 0 ≠ ⟨.imm, 0⟩) := by decide

theorem witness_LoadChecksRecords :
    decode 0x20 = .ok (.psh (lit 0)) ∧ decode 0x45 = .error .unknownOpcode ∧
    decode 0x4020 = .error .reservedBits ∧ operandCount 0x45 = none ∧ operandCount 0x44 = some 2 ∧
    operandCount 0x24 = some 0 ∧
    codeItemOk 255 4 (.fields 0x44 [0, 1] [255, 3]) = true ∧
    codeItemOk 255 4 (.fields 0x44 [0, 1] [256, 3]) = false ∧
    codeItemOk 255 4 (.fields 0x44 [0, 1] [255, 4]) = false := by decide

theorem witness_WordReadings :
    cfg8.Coherent ∧ (0x80 : Word).toNat < 2 ^ cfg8.w.bits ∧ (0xFF : Word).toNat < 2 ^ cfg8.w.bits :=
  ⟨cfg8_coherent, by decide, by decide⟩

theorem witness_ComplementStaysWithinWidth :
    cfg8.Coherent ∧ (0 : Word).toNat < 2 ^ cfg8.w.bits ∧ (0xFF : Word).toNat < 2 ^ cfg8.w.bits :=
  ⟨cfg8_coherent, by decide, by decide⟩

theorem witness_StepRunsDecodedInstruction :
    p2.hasReserved ∧ p2.status = .ready ∧ p2.pc.toNat < p2.cfg.plen ∧
    p2.prog.code[p2.pc.toNat]? = some 0x0000000000000000000000030020 ∧
    decode 0x0000000000000000000000030020 = .ok (.psh (lit 3)) := by decide

theorem witness_CallsRefusedOrIgnored :
    (State.reset.status ≠ .ready ∧ State.reset.status ≠ .halted) ∧
    (p2faulted.status ≠ .ready ∧ p2faulted.status ≠ .halted) ∧
    (p2.Inv ∧ p2.status = .ready) ∧ (p2halted.Inv ∧ p2halted.status = .halted) ∧
    (p2.Inv ∧ p2.status ≠ .awaitingInput) ∧ (p2waiting.Inv ∧ p2waiting.status = .awaitingInput) :=
  ⟨by decide, by decide, ⟨p2_inv, rfl⟩, ⟨p2halted_inv, rfl⟩, ⟨p2_inv, by decide⟩, p2waiting_inv, rfl⟩

theorem witness_HaltingStepChangesPcAndStatusOnly :
    (p2halted.hasReserved ∧ p2halted.status = .halted ∧ p2halted.cfg.plen ≤ p2halted.pc.toNat) ∧
    ((p3at 7 0 .ready).hasReserved ∧ (p3at 7 0 .ready).pc.toNat < (p3at 7 0 .ready).cfg.plen ∧
      (p3at 7 0 .ready).prog.code[(p3at 7 0 .ready).pc.toNat]? = some (encode .hlt)) := by decide

theorem witness_UnknownOpcodeFaults :
    unknown45.hasReserved ∧ unknown45.status = .ready ∧ unknown45.pc.toNat < unknown45.cfg.plen ∧
    unknown45.prog.code[unknown45.pc.toNat]? = some 0x3F45 ∧ 0x45 ≤ fieldOpc 0x3F45 := by decide

theorem witness_StepAlwaysProceeds :
    (p2.Inv ∧ p2.status = .ready) ∧ (p2halted.Inv ∧ p2halted.status = .halted) :=
  ⟨⟨p2_inv, rfl⟩, p2halted_inv, rfl⟩

theorem witness_RunIsRepeatedSteps :
    p2.Inv ∧ p2.status = .ready ∧ statusAfter (hostRun 1 1 p2) = some .ready ∧
    statusAfter (hostRun 128 1 p2) = some .halted ∧
    (∃ f, endOfRun 128 [.run 1] p2 = some f ∧ endOfRun 128 [.step, .step, .step] p2 = some f) ∧
    (p2waiting.status = .awaitingInput ∧ ∀ c ∈ [HostCall.step, .run 1], c.executes = true) ∧
    (p2faulted.Inv ∧ p2faulted.status = .faulted) :=
  ⟨p2_inv, rfl, by decide, by decide, ⟨_, rfl, by decide⟩, by decide, p2faulted_inv, rfl⟩

/-- The hypotheses of MoveResults, ArithmeticResults, BitwiseResults, SetResults and the branch results: any
register of the file, the PC and the last included, and any Imm. Both outcomes of every condition are in
the tests above, on states of the same kind. -/
theorem witness_usable_operands :
    w8.hasReserved ∧ w8.canUse pcR ∧ w8.canUse r2 ∧ ¬ w8.canUse (reg 5) ∧ w8.canUse (lit 0) ∧
    w8.canUse (lit 0xFFFFFFFF) := by decide

theorem witness_MoveResults : w8.hasReserved ∧ w8.canUse r2 ∧ w8.canUse pcR := by decide
theorem witness_NopAndHltResults : w8.hasReserved := by decide
theorem witness_ArithmeticResults : w8.hasReserved ∧ w8.canUse r2 ∧ w8.canUse spR ∧ w8.canUse (lit 255) := by
  decide
theorem witness_BitwiseResults : w8.hasReserved ∧ w8.canUse (lit 0) ∧ w8.canUse r1 ∧ w8.canUse r2 := by
  decide
theorem witness_SetResults : w8.hasReserved ∧ w8.canUse r0 ∧ w8.canUse r1 ∧ w8.canUse r2 := by decide
theorem witness_JumpAndUnsignedBranchResults :
    w8.hasReserved ∧ w8.canUse (lit 200) ∧ w8.canUse r1 ∧ w8.canUse r2 := by decide
theorem witness_UnaryBranchResults : w8.hasReserved ∧ w8.canUse pcR ∧ w8.canUse r2 := by decide
theorem witness_CarryAndSignedBranchResults :
    w8.hasReserved ∧ w8.canUse (lit 3) ∧ w8.canUse r1 ∧ w8.canUse r2 := by decide

theorem witness_LoadResults :
    w8.hasReserved ∧ w8.canUse r0 ∧ w8.canUse r1 ∧ w8.canUse (lit 31) ∧
    (w8.advanced.value (lit 31)).toNat < w8.msize ∧
    (w8.advanced.value (lit 1)).toNat + (w8.advanced.value (lit 30)).toNat < w8.msize := by decide

theorem witness_StoreResults :
    w8.hasReserved ∧ w8.canUse (lit 31) ∧ w8.canUse r0 ∧ (w8.advanced.value (lit 31)).toNat < w8.msize ∧
    (w8.advanced.value (lit 30)).toNat + (w8.advanced.value (lit 1)).toNat < w8.msize ∧
    (w8.advanced.value r0).toNat < w8.msize := by decide

theorem witness_LoadsOutOfBoundsFault :
    w8.hasReserved ∧ w8.canUse (lit 32) ∧ w8.msize ≤ (w8.advanced.value (lit 32)).toNat ∧ w8.canUse (lit 1) ∧
    w8.msize ≤ (w8.advanced.value (lit 1)).toNat + (w8.advanced.value (lit 31)).toNat := by decide

theorem witness_StoresOutOfBoundsFault :
    w8.hasReserved ∧ w8.canUse (lit 32) ∧ w8.msize ≤ (w8.advanced.value (lit 32)).toNat ∧
    (w8.advanced.value (lit 31)).toNat < w8.msize ∧ w8.canUse (lit 0) ∧
    w8.msize ≤ (w8.advanced.value (lit 32)).toNat + (w8.advanced.value (lit 0)).toNat := by decide

theorem witness_DivisionResults :
    w8.hasReserved ∧ w8.canUse r0 ∧ w8.canUse r1 ∧ w8.canUse r2 ∧ (w8.advanced.value r2).toNat ≠ 0 ∧
    w8.canUse (lit 0) ∧ (w8.advanced.value (lit 0)).toNat = 0 := by decide

theorem witness_ShiftResults :
    w8.hasReserved ∧ w8.canUse r0 ∧ w8.canUse r1 ∧ w8.canUse (lit 7) ∧ w8.cfg.Coherent ∧
    (w8.advanced.value r1).toNat < 2 ^ w8.cfg.w.bits :=
  ⟨by decide, by decide, by decide, by decide, cfg8_coherent, by decide⟩

theorem witness_LongShiftsFill :
    w8.hasReserved ∧ w8.canUse r0 ∧ w8.canUse r1 ∧ w8.canUse (lit 8) ∧ w8.cfg.Coherent ∧
    (w8.advanced.value r1).toNat < 2 ^ w8.cfg.w.bits ∧ w8.cfg.w.bits ≤ (w8.advanced.value (lit 8)).toNat :=
  ⟨by decide, by decide, by decide, by decide, cfg8_coherent, by decide, by decide⟩

/-- The SP at MSIZE and one above HSB. -/
theorem witness_PushAndCallResults :
    (w8.hasReserved ∧ w8.canUse r0 ∧ w8.sp.toNat < 2 ^ w8.cfg.w.bits ∧ w8.hsb < w8.sp.toNat ∧
      w8.sp.toNat = w8.msize) ∧
    (p2low.hasReserved ∧ p2low.canUse (lit 1) ∧ p2low.sp.toNat = p2low.hsb + 1 ∧
      p2low.sp.toNat ≤ p2low.msize) := by decide

theorem witness_PopAndReturnResults :
    (m8at 31 0 0 0 []).hasReserved ∧ (m8at 31 0 0 0 []).sp.toNat < (m8at 31 0 0 0 []).msize ∧
    (m8at 31 0 0 0 []).canUse spR ∧ (m8at 0 0 0 0 []).sp.toNat < (m8at 0 0 0 0 []).msize := by decide

theorem witness_PushAtBoundaryOverflows :
    (m8at 24 0 0 0 []).hasReserved ∧ (m8at 24 0 0 0 []).canUse r0 ∧
    (m8at 24 0 0 0 []).sp.toNat ≤ (m8at 24 0 0 0 []).hsb ∧
    (m8at 0 0 0 0 []).sp.toNat ≤ (m8at 0 0 0 0 []).hsb := by decide

theorem witness_PopAtTopUnderflows :
    w8.hasReserved ∧ w8.msize ≤ w8.sp.toNat ∧ (m8at 255 0 0 0 []).msize ≤ (m8at 255 0 0 0 []).sp.toNat := by
  decide

theorem witness_PushAboveMemoryFaultsAfterDecrement :
    (m8at 33 0 0 0 []).hasReserved ∧ (m8at 33 0 0 0 []).canUse r0 ∧
    (m8at 33 0 0 0 []).sp.toNat < 2 ^ (m8at 33 0 0 0 []).cfg.w.bits ∧
    (m8at 33 0 0 0 []).hsb < (m8at 33 0 0 0 []).sp.toNat ∧
    (m8at 33 0 0 0 []).msize < (m8at 33 0 0 0 []).sp.toNat := by decide

theorem witness_PushThenPopRestores :
    p2.hasReserved ∧ p2.mem.wf ∧ p2.sp.toNat < 2 ^ p2.cfg.w.bits ∧
    push 300 p2 = .ok { p2 with regs := [0, 7, 0, 0], mem := [(7, 44)] } :=
  ⟨by decide, by decide, by decide, rfl⟩

theorem witness_PshThenPopMovesWord :
    (p2.Inv ∧ p2.hasReserved ∧ p2.canUse (lit 255) ∧
      (p2.advanced.value (lit 255)).toNat < 2 ^ p2.cfg.w.bits ∧ r1.kind = .reg ∧ 2 ≤ r1.value.toNat ∧
      r1.value.toNat < p2.regs.length ∧ p2.hsb < p2.sp.toNat ∧ p2.sp.toNat = p2.msize) ∧
    (p2low.Inv ∧ p2low.hsb < p2low.sp.toNat ∧ p2low.sp.toNat ≤ p2low.msize) :=
  ⟨⟨p2_inv, by decide⟩, p2low_inv, by decide⟩

theorem witness_MemoryAccessesAreCheckedAndExact :
    w8.mem.wf ∧ w8.msize ≤ 32 ∧ 31 < w8.msize := by decide

theorem witness_InResults :
    (bound7 []).hasReserved ∧ (bound7 []).canUse (lit 7) ∧ (bound7 []).canUse r0 ∧
    boundDevice (bound7 []).registry.inMap ((bound7 []).advanced.value (lit 8)) = none ∧
    boundDevice (bound7 [.value 300]).registry.inMap ((bound7 [.value 300]).advanced.value (lit 7)) = some 1 ∧
    (bound7 [.value 300]).oracle.script = .value 300 :: [] ∧
    boundDevice (bound7 [.pending]).registry.inMap ((bound7 [.pending]).advanced.value (lit 7)) = some 1 ∧
    (bound7 [.pending]).oracle.script = .pending :: [] := by decide

/-- The free answer is a value or Pending, so one of the two clauses applies whatever it is; of a destination
of an unrecognised kind, `canUse` is not asked where it is Pending. -/
theorem witness_InFollowsFreeAnswer :
    (bound7 []).hasReserved ∧ (bound7 []).canUse r0 ∧ (bound7 []).canUse (lit 7) ∧
    boundDevice (bound7 []).registry.inMap ((bound7 []).advanced.value (lit 7)) = some 1 ∧
    (bound7 []).oracle.script = [] ∧
    ((∃ v, Config.deviceAnswer 1 7 0 = .value v) ∨ Config.deviceAnswer 1 7 0 = .pending) := by
  refine ⟨by decide, by decide, by decide, by decide, by decide, ?_⟩
  cases Config.deviceAnswer 1 7 0 with
  | value v => exact .inl ⟨v, rfl⟩
  | pending => exact .inr rfl

theorem witness_OutResults :
    (bound7 []).hasReserved ∧ (bound7 []).canUse (lit 7) ∧ (bound7 []).canUse r0 ∧
    boundDevice (bound7 []).registry.outMap ((bound7 []).advanced.value (lit 7)) = some 1 ∧
    boundDevice (bound7 []).registry.outMap ((bound7 []).advanced.value (lit 2)) = none := by decide

theorem witness_ResumeWritesDestinationOnly :
    (bound7 []).pending.valid = false ∧
    ((suspended (lit 4)).pending.valid = true ∧ (suspended (lit 4)).pending.kind = .imm) ∧
    ((suspended r2).pending.valid = true ∧ (suspended r2).pending.kind = .reg ∧
      (suspended r2).pending.value.toNat < (suspended r2).regs.length) ∧
    ((suspended bad2).pending.valid = true ∧ (suspended bad2).pending.kind = .unknown2) := by decide

theorem witness_BadKindInputFaults :
    w8.hasReserved ∧ w8.inFile (.add r0 r1 bad3) ∧
    dispatchRoles (opcodeOf (.add r0 r1 bad3)).toNat = some [.set, .get, .get] ∧
    (∃ e ∈ [Role.set, .get, .get].zip (Instr.add r0 r1 bad3).operands, inputRole e.1 = true ∧ e.2.badKind) := by
  unfold State.inFile; decide

theorem witness_BadKindTargetFaults :
    w8.hasReserved ∧ bad2.badKind ∧ bad3.badKind ∧ (∀ o ∈ [r1, r2], w8.canUse o) ∧
    dispatchRoles (opcodeOf (.add bad2 r1 r2)).toNat = some [.set, .get, .get] ∧
    opcodeOf (.add bad2 r1 r2) ∉ [(0x29 : BitVec 8), 0x2A, 0x39, 0x43] ∧
    (w8.advanced.value (lit 31)).toNat < w8.msize ∧
    (w8.advanced.value (lit 1)).toNat + (w8.advanced.value (lit 30)).toNat < w8.msize ∧
    (w8.advanced.value (lit 1)).toNat ≠ 0 ∧ (m8at 31 0 0 0 []).sp.toNat < (m8at 31 0 0 0 []).msize ∧
    boundDevice (bound7 []).registry.inMap ((bound7 []).advanced.value (lit 8)) = none ∧
    boundDevice (bound7 [.value 1]).registry.inMap ((bound7 [.value 1]).advanced.value (lit 7)) = some 1 ∧
    (bound7 [.value 1]).oracle.script = .value 1 :: [] := by
  decide

/-- The clause of BadKindTargetFaults on the free answer: no hypothesis but its last fixes that answer, and
where it is Pending instead, InFollowsFreeAnswer applies. -/
theorem witness_BadKindTargetFaults_free :
    (bound7 []).hasReserved ∧ bad2.badKind ∧ (bound7 []).canUse (lit 7) ∧
    boundDevice (bound7 []).registry.inMap ((bound7 []).advanced.value (lit 7)) = some 1 ∧
    (bound7 []).oracle.script = [] := by decide

theorem witness_FaultingStepKeepsMemory :
    unknown45.hasReserved ∧ statusAfter (step unknown45) = some .faulted := by decide

theorem witness_RegisterInstructionFrame :
    w8.hasReserved ∧ dispatchRoles (opcodeOf (.lod r0 r0)).toNat = some [.set, .getRam] ∧
    opcodeOf (.lod r0 r0) ≠ 0x43 ∧ statusAfter (exec (.lod r0 r0) w8) = some .ready ∧
    statusAfter (exec (.add r0 r1 r2) w8) = some .ready ∧
    statusAfter (exec (.div r0 r1 (lit 0)) w8) = some .faulted := by decide

theorem witness_BranchFrame :
    w8.hasReserved ∧ dispatchRoles (opcodeOf (.brz (lit 3) r1)).toNat = some [.get, .get] ∧
    statusAfter (exec (.brz (lit 3) r1) w8) = some .ready ∧
    statusAfter (exec (.bge (lit 3) r1 r2) w8) = some .ready ∧
    statusAfter (exec (.jmp (lit 3)) w8) = some .ready ∧ statusAfter (exec .hlt w8) = some .halted := by
  decide

theorem witness_StoreFrame :
    w8.hasReserved ∧ statusAfter (exec (.str (lit 31) r1) w8) = some .ready ∧
    statusAfter (exec (.cpy (lit 31) r0) w8) = some .ready ∧
    statusAfter (exec (.lstr (lit 30) (lit 1) r2) w8) = some .ready := by decide

theorem witness_StackFrame :
    w8.hasReserved ∧ w8.sp.toNat < 2 ^ w8.cfg.w.bits ∧ statusAfter (exec (.psh r0) w8) = some .ready ∧
    statusAfter (exec (.cal (lit 3)) w8) = some .ready ∧
    statusAfter (exec (.pop r0) (m8at 31 0 0 0 [])) = some .ready ∧
    statusAfter (exec .ret (m8at 31 0 0 0 [])) = some .ready := by decide

theorem witness_InOutFrame :
    (bound7 []).hasReserved ∧
    statusAfter (exec (.inPort r0 (lit 7)) (bound7 [.value 1])) = some .ready ∧
    statusAfter (exec (.inPort r0 (lit 7)) (bound7 [.pending])) = some .awaitingInput ∧
    statusAfter (exec (.outPort (lit 7) r0) (bound7 [])) = some .ready := by decide

/-- Each check of LoadReportsFirstError failing first, one past its limit, and the limits themselves
passing. -/
theorem witness_LoadReportsFirstError :
    (headers 40 0 0 0 none).run = none ∧
    ((headers 40 0 0 0 (some .ram)).bits = some 40 ∧ (headers 40 0 0 0 (some .ram)).run = some .ram ∧
      RunMode.ram ≠ .rom) ∧
    ((headers 33 0 0 0 (some .rom)).run = some .rom ∧ 32 < 33 ∧ (0 : Nat) < 1) ∧
    (largestWord 8 < 254 + 2 ∧ 253 + 2 ≤ largestWord 8) ∧
    (largestWord 8 < [1, 2].length + 200 + 54 ∧ [1, 2].length + 200 + 53 ≤ largestWord 8) ∧
    (∃ item ∈ [CodeItem.packed 0x4024], codeItemOk (largestWord 8) (2 + 2) item = false) ∧
    (∀ item ∈ program2.code, codeItemOk (largestWord 8) (2 + 2) item = true) := by decide

theorem witness_LoadInitialisesMachine :
    (hostLoad program2 State.reset).status = .ready ∧ (hostLoad program3 p2faulted).status = .ready ∧
    (hostLoad programFields State.reset).status = .ready ∧
    (∀ b ∈ [1, 8, 9, 16, 17, 32],
      (hostLoad { program2 with headers := headers b 2 4 4 (some .rom) } State.reset).status = .ready) := by
  decide

theorem witness_FailedLoadDiscardsMachine :
    (hostLoad { program2 with headers := headers 8 2 4 4 (some .ram) } p2).status = .unloaded := by decide

theorem witness_ResetRestoresLoadedState :
    (p2faulted.status ≠ .unloaded ∧ (hostLoad program2 State.reset).status = .ready ∧
      p2faulted.cfg = (hostLoad program2 State.reset).cfg ∧
      p2faulted.prog = (hostLoad program2 State.reset).prog) ∧
    State.reset.status = .unloaded := by decide

theorem witness_StepKeepsInvariant :
    (p2.Inv ∧ statusAfter (step p2) = some .ready) ∧
    (p2halted.Inv ∧ statusAfter (step p2halted) = some .halted) :=
  ⟨⟨p2_inv, by decide⟩, p2halted_inv, by decide⟩

theorem witness_HostCallsKeepInvariant : p2waiting.Inv ∧ p2faulted.Inv := ⟨p2waiting_inv, p2faulted_inv⟩

theorem witness_StepKeepsSetup : statusAfter (step p2) = some .ready := by decide

/-- Two machines that differ in PENDING, the fault registers, LOAD_ERR and the histories alone. -/
theorem witness_HostRegistersNotObservable :
    let q : State :=
      { p2 with
        pending := { valid := false, kind := .reg, value := 3, index := 1 }
        fault := faultRecord .divByZero 9 0 p2
        loadErr := .missingHeader
        output := [.out 2 5]
        diagnostics := [.warn .unboundInput 7] }
    p2.cfg = q.cfg ∧ p2.status = q.status ∧ p2.regs = q.regs ∧ p2.mem = q.mem ∧ p2.prog = q.prog ∧
    p2.registry = q.registry ∧ p2.oracle = q.oracle ∧ p2 ≠ q ∧ statusAfter (step p2) = some .ready := by
  decide

end Sys2Proof.Tests
end

section
/-! PROOFS. One read and one write of data memory: what a store leaves behind (R65, R66). -/

namespace Sys2Proof.Machine

variable (s : State) (a : Nat) (v : Word)

@[simp] theorem State.stored_msize : (s.stored a v).msize = s.msize := rfl

/-- The word stored is the one truncated to W bits. -/
theorem State.wordAt_stored_same (hm : s.mem.wf) : (s.stored a v).wordAt a = trunc s.cfg.w v.toNat :=
  Memory.read_write_same _ _ _ hm

theorem State.wordAt_stored_other (b : Nat) (hb : b ≠ a) : (s.stored a v).wordAt b = s.wordAt b :=
  Memory.read_write_other _ _ _ _ hb

theorem State.stored_mem_wf (hm : s.mem.wf) : (s.stored a v).mem.wf := Memory.write_wf _ _ _ hm

/-- A store changes the data memory alone. -/
theorem State.stored_restore_mem : { s.stored a v with mem := s.mem } = s := rfl

/-- A read after a store in range gives the truncated word. -/
theorem memRead_stored_same (hm : s.mem.wf) (ha : a < s.msize) :
    memRead a (s.stored a v) = .ok (trunc s.cfg.w v.toNat) := by
  rw [memRead_ok _ _ (by simpa using ha), s.wordAt_stored_same a v hm]

/-- Settles O36: the bounds check sends each access to the raise lemmas or to the stored state, whose words
the rules above give. -/
theorem memoryAccessesAreCheckedAndExact : Obligations.MemoryAccessesAreCheckedAndExact := by
  intro s a v hm
  constructor
  · intro past
    exact ⟨memRead_raise s a past, memWrite_raise s a v past, rfl, rfl⟩
  · intro below
    exact ⟨memRead_ok s a below, s.stored a v, memWrite_ok s a v below, memRead_stored_same s a v hm below,
      s.wordAt_stored_other a v, s.stored_mem_wf a v hm, s.stored_restore_mem a v⟩

end Sys2Proof.Machine
end

section
/-! PROOFS. What a step does with a record whose opcode is outside the table (R101, R124). -/

namespace Sys2Proof.Machine

/-- OPC alone decides: RSV, the kinds and the values play no part (R96, R102). -/
theorem decode_unknownOpcode (w : PackedWord) (h : 0x45 ≤ fieldOpc w) :
    decode w = .error .unknownOpcode := by
  unfold decode
  split
  case h_70 => rfl
  all_goals omega

variable (s : State)

/-- With the reserved registers there, the fetch finds the PC. -/
theorem State.regs_pcIndex (h : s.hasReserved) : s.regs[pcIndex]? = some s.pc := by
  have h0 : 0 < s.regs.length := by omega
  simp [State.pc, State.regAt, pcIndex, h0]

theorem State.steppable_iff : s.steppable = true ↔ s.status = .ready ∨ s.status = .halted := by
  simp [State.steppable]

/-- A record below CFG_PLEN that does not decode for its opcode is fetched as an unknown one (R124). -/
theorem fetch_unknown (w : PackedWord) (h : s.hasReserved) (hpc : s.pc.toNat < s.cfg.plen)
    (hw : s.prog.code[s.pc.toNat]? = some w) (hd : decode w = .error .unknownOpcode) :
    fetch s = .unknown := by
  simp [fetch, s.regs_pcIndex h, hw, hd, Nat.not_le.mpr hpc]

theorem step_unknown (hs : s.steppable = true) (hf : fetch s = .unknown) :
    step s = unknownOpcodeStep s := by
  rw [step, if_pos hs, hf]

/-- The fault is raised on the advanced state, with the PC of the record as its index (R321). -/
theorem unknownOpcodeStep_eq (h : s.hasReserved) :
    unknownOpcodeStep s = .next (s.faultedAs .unknownOpcode 0 s.advanced) :=
  withCur_eq s _ h

/-- Settles O11: OPC alone makes the decoder and so the fetch answer unknown, and that step raises the fault
on the advanced state. -/
theorem unknownOpcodeFaults : Obligations.UnknownOpcodeFaults := by
  intro s w hres hstatus hpc hw hopc
  have hfetch : fetch s = .unknown := fetch_unknown s w hres hpc hw (decode_unknownOpcode w hopc)
  calc step s
      = unknownOpcodeStep s := step_unknown s (s.steppable_iff.mpr hstatus) hfetch
    _ = .next (s.faultedAs .unknownOpcode 0 s.advanced) := unknownOpcodeStep_eq s hres

end Sys2Proof.Machine
end

section
/-! PROOFS. The step past the end of the program and over a decoded record; the halting step (R122, R123,
R131). -/

namespace Sys2Proof.Machine

theorem decode_encode_hlt : decode (encode .hlt) = .ok .hlt := by decide

variable (s : State)

/-- A PC at or past CFG_PLEN is past the end, whatever the program store holds (R123). -/
theorem fetch_pastEnd (h : s.hasReserved) (hpc : s.cfg.plen ≤ s.pc.toNat) : fetch s = .pastEnd := by
  simp [fetch, s.regs_pcIndex h, hpc]

/-- A record below CFG_PLEN that decodes is fetched as its instruction (R131). -/
theorem fetch_instr (w : PackedWord) (i : Instr) (h : s.hasReserved) (hpc : s.pc.toNat < s.cfg.plen)
    (hw : s.prog.code[s.pc.toNat]? = some w) (hd : decode w = .ok i) : fetch s = .instr i := by
  simp [fetch, s.regs_pcIndex h, hw, hd, Nat.not_le.mpr hpc]

theorem step_pastEnd (hs : s.steppable = true) (hf : fetch s = .pastEnd) : step s = haltStep s := by
  rw [step, if_pos hs, hf]

theorem step_instr (i : Instr) (hs : s.steppable = true) (hf : fetch s = .instr i) :
    step s = exec i s := by
  rw [step, if_pos hs, hf]

theorem haltStep_eq (h : s.hasReserved) : haltStep s = .next (s.advanced.withStatus .halted) :=
  withCur_eq s _ h

/-- Settles O10: both the end of the program and an HLT record lead the step to the one halting step. -/
theorem haltingStepChangesPcAndStatusOnly : Obligations.HaltingStepChangesPcAndStatusOnly := by
  intro s hres hstatus hend
  have hs : s.steppable = true := s.steppable_iff.mpr hstatus
  have halts : step s = haltStep s := by
    rcases hend with hpast | ⟨hpc, hw⟩
    · exact step_pastEnd s hs (fetch_pastEnd s hres hpast)
    · exact step_instr s .hlt hs (fetch_instr s _ .hlt hres hpc hw decode_encode_hlt)
  rw [halts, haltStep_eq s hres]

end Sys2Proof.Machine
end

section
/-! PROOFS. What a step needs of the machine to answer a next state, and that every step, burst and run keeps
it (R120, R134). -/

namespace Sys2Proof.Machine

/-- The part of the invariant that a step relies on: it shuts out the stops of a record that no load
accepts, of a hole in the program store and of a register outside the file. -/
structure State.Executable (s : State) : Prop where
  reserved : s.hasReserved
  /-- CFG_PLEN counts the stored records (R40). -/
  storeLength : s.cfg.plen = s.prog.code.length
  /-- Every record passed the load check for this register file (R354). -/
  records : ∀ w ∈ s.prog.code, packedOk s.cfg.m.toNat s.regs.length w = true

variable {s t : State}

/-- A loaded machine that meets the invariant is executable. -/
theorem State.Inv.executable (h : s.Inv) (hl : s.status ≠ .unloaded) : s.Executable := by
  obtain ⟨coherent, plen, -⟩ := h.configured hl
  refine ⟨?_, plen, ?_⟩
  · rw [State.hasReserved, h.fileLength]; exact coherent.reserved
  · rw [h.fileLength]; exact h.programChecked

/-- Only the configuration, the program store and the size of the register file matter. -/
theorem State.Executable.congr (h : s.Executable) (hcfg : t.cfg = s.cfg) (hprog : t.prog = s.prog)
    (hlen : t.regs.length = s.regs.length) : t.Executable where
  reserved := by rw [State.hasReserved, hlen]; exact h.reserved
  storeLength := by rw [hcfg, hprog]; exact h.storeLength
  records := by rw [hcfg, hprog, hlen]; exact h.records

/-- A record that passed the load check decodes to a checked instruction, or its opcode is unknown (R102). -/
theorem packedOk_cases {m nreg : Nat} {w : PackedWord} (h : packedOk m nreg w = true) :
    (∃ i, decode w = .ok i ∧ i.wellFormed m nreg = true) ∨ decode w = .error .unknownOpcode := by
  unfold packedOk at h
  cases hd : decode w with
  | ok i => rw [hd] at h; exact .inl ⟨i, rfl, h⟩
  | error e => cases e <;> simp [hd] at h ⊢

/-- The register operands of a checked instruction lie in the register file (R98). -/
theorem State.inFile_of_wellFormed {m : Nat} {i : Instr} (h : i.wellFormed m s.regs.length = true) :
    s.inFile i := by
  intro o ho hk
  have hw := List.all_eq_true.mp h o ho
  simpa [Operand.wellFormed, hk] using hw

/-- Everything the fetch can find on an executable machine (R123, R124, R131). -/
theorem State.Executable.fetch_cases (h : s.Executable) :
    fetch s = .pastEnd ∨ (∃ i, fetch s = .instr i ∧ s.inFile i) ∨ fetch s = .unknown := by
  by_cases hpast : s.cfg.plen ≤ s.pc.toNat
  · exact .inl (fetch_pastEnd s h.reserved hpast)
  have hpc : s.pc.toNat < s.cfg.plen := Nat.not_le.mp hpast
  have hlt : s.pc.toNat < s.prog.code.length := h.storeLength ▸ hpc
  have hw := List.getElem?_eq_getElem hlt
  rcases packedOk_cases (h.records _ (List.getElem_mem hlt)) with ⟨i, hd, hi⟩ | hd
  · exact .inr (.inl ⟨i, fetch_instr s _ i h.reserved hpc hw hd, State.inFile_of_wellFormed hi⟩)
  · exact .inr (.inr (fetch_unknown s _ h.reserved hpc hw hd))

/-- A step from an executable machine ends in one of the four ways; an input suspends on an operand that can
be written when it resumes, as far as registers go. -/
theorem State.Executable.step_stepEnds (h : s.Executable) (hs : s.steppable = true) :
    ∃ tgt, (tgt.kind = .reg → tgt.value.toNat < s.regs.length) ∧ StepEnds s s.pc tgt (step s) := by
  have emptyInFile : emptySlot.kind = .reg → emptySlot.value.toNat < s.regs.length := nofun
  have hadv : Evolves s s.advanced := Evolves.setReg ..
  rcases h.fetch_cases with hf | ⟨i, hf, hi⟩ | hf
  · rw [step_pastEnd s hs hf, haltStep_eq s h.reserved]
    exact ⟨emptySlot, emptyInFile, .halted _ hadv⟩
  · rw [step_instr s i hs hf]
    obtain ⟨tgt, hmem | rfl, ends⟩ := exec_stepEnds i s h.reserved hi
    · exact ⟨tgt, hi tgt hmem, ends⟩
    · exact ⟨emptySlot, emptyInFile, ends⟩
  · rw [step_unknown s hs hf, unknownOpcodeStep_eq s h.reserved]
    exact ⟨emptySlot, emptyInFile, .faulted _ _ _ (by decide) hadv⟩

/-- However a step ends, it answers a next state, and that state is executable again. -/
theorem StepEnds.next_executable {cur : Word} {tgt : Operand} {out : Outcome}
    (h : StepEnds s cur tgt out) (hs : s.Executable) : ∃ t, out = .next t ∧ t.Executable := by
  cases h with
  | continued t ht => exact ⟨_, rfl, hs.congr ht.cfg ht.prog ht.fileLength⟩
  | halted t ht => exact ⟨_, rfl, hs.congr ht.cfg ht.prog ht.fileLength⟩
  | suspended t ht => exact ⟨_, rfl, hs.congr ht.cfg ht.prog ht.fileLength⟩
  | faulted t c i _ ht => exact ⟨_, rfl, hs.congr ht.cfg ht.prog ht.fileLength⟩

theorem State.Executable.step_next (h : s.Executable) (hs : s.steppable = true) :
    ∃ t, step s = .next t ∧ t.Executable := by
  obtain ⟨_, -, ends⟩ := h.step_stepEnds hs
  exact ends.next_executable h

theorem State.steppable_of_ready (h : s.status = .ready) : s.steppable = true :=
  s.steppable_iff.mpr (.inl h)

/-- A burst goes on only while the step returns Continue, so each of its steps is one from READY or HALTED
(R134). -/
theorem State.Executable.runBurst_next (n : Nat) (h : s.Executable) (hs : s.steppable = true) :
    ∃ t, runBurst n s = .next t ∧ t.Executable := by
  induction n generalizing s with
  | zero => exact ⟨s, rfl, h⟩
  | succ n ih =>
    obtain ⟨t, hstep, ht⟩ := h.step_next hs
    simp only [runBurst, hstep]
    split
    case isTrue ready => exact ih ht (State.steppable_of_ready ready)
    case isFalse => exact ⟨t, rfl, ht⟩

theorem State.Executable.runBursts_next (burst k : Nat) (h : s.Executable) (hs : s.steppable = true) :
    ∃ t, runBursts burst k s = .next t ∧ t.Executable := by
  induction k generalizing s with
  | zero => exact ⟨s, rfl, h⟩
  | succ k ih =>
    obtain ⟨t, hburst, ht⟩ := h.runBurst_next burst hs
    simp only [runBursts, hburst]
    split
    case isTrue ready => exact ih ht (State.steppable_of_ready ready)
    case isFalse => exact ⟨t, rfl, ht⟩

theorem hostRun_eq_runBursts (burst k : Nat) (hs : s.steppable = true) :
    hostRun burst k s = runBursts burst k s := if_pos hs

theorem State.Executable.hostRun_next (burst k : Nat) (h : s.Executable) (hs : s.steppable = true) :
    ∃ t, hostRun burst k s = .next t ∧ t.Executable := by
  rw [hostRun_eq_runBursts burst k hs]
  exact h.runBursts_next burst k hs

end Sys2Proof.Machine
end

section
/-! PROOFS. Which host calls are refused, ignored or defined in each status (R121, R297, R362, R363). -/

namespace Sys2Proof.Machine

variable (s : State)

theorem step_refused (hs : ¬ s.steppable = true) : step s = .refused (.callRefused s.status) := if_neg hs

theorem hostRun_refused (burst k : Nat) (hs : ¬ s.steppable = true) :
    hostRun burst k s = .refused (.callRefused s.status) := if_neg hs

/-- With nothing pending the call is ignored (R297). -/
theorem finishPendingInput_ignored (v : Nat) (h : s.pending.valid = false) :
    finishPendingInput v s = .next s := if_pos h

/-- With an input pending the step it suspended ends: in READY, or in FAULTED on a destination of a bad
kind (R297). -/
theorem finishPendingInput_ends (v : Nat) (h : s.pending.valid = true)
    (inFile : s.pending.kind = .reg → s.pending.value.toNat < s.regs.length) :
    ∃ t, finishPendingInput v s = .next t ∧ (t.status = .ready ∨ t.status = .faulted) := by
  rw [finishPendingInput, if_neg (by simp [h])]
  rcases writeTarget_cases s ⟨s.pending.kind, s.pending.value⟩ v with
    ⟨_, written⟩ | ⟨_, faults⟩ | ⟨isReg, outside, _⟩
  · rw [written]; exact ⟨_, rfl, .inl rfl⟩
  · rw [faults]; exact ⟨_, rfl, .inr rfl⟩
  · exact absurd (inFile isReg) (Nat.not_lt.mpr outside)

/-- Settles O9: the guard of `step` and `run` decides outside READY and HALTED; inside, the invariant makes
the machine executable, and a run from it answers a next state; PENDING tells whether a resume is ignored. -/
theorem callsRefusedOrIgnored : Obligations.CallsRefusedOrIgnored := by
  refine ⟨?refused, ?answered, ?resumed⟩
  case refused =>
    intro s burst k notReady notHalted
    have hs : ¬ s.steppable = true := by simp [s.steppable_iff, notReady, notHalted]
    exact ⟨step_refused s hs, hostRun_refused s burst k hs⟩
  case answered =>
    intro s burst k r inv hstatus
    have hs : s.steppable = true := s.steppable_iff.mpr hstatus
    have loaded : s.status ≠ .unloaded := by rcases hstatus with h | h <;> simp [h]
    have executable : s.Executable := inv.executable loaded
    obtain ⟨t, hstep, -⟩ := executable.step_next hs
    obtain ⟨u, hrun, -⟩ := executable.hostRun_next burst k hs
    simp [hstep, hrun]
  case resumed =>
    intro s v inv
    constructor
    · intro notAwaiting
      exact finishPendingInput_ignored s v (Bool.eq_false_iff.mpr (mt inv.pendingStatus.mp notAwaiting))
    · intro awaiting
      have pending : s.pending.valid = true := inv.pendingStatus.mpr awaiting
      exact finishPendingInput_ends s v pending fun isReg =>
        inv.fileLength ▸ inv.pendingTarget pending isReg

end Sys2Proof.Machine
end

section
/-! PROOFS. The two instructions without operands and without an effect of their own (R162, R241). -/

namespace Sys2Proof.Machine

variable {s : State}

/-- No roles: both passes are empty, and the step ends in the state the execution function leaves (R131). -/
theorem runInstr_noOperands (fn : Fn) (o : Slots) (t : State) (h : s.hasReserved)
    (hf : fn Slots.zero s.advanced = .ok (.complete o t)) : runInstr [] fn s = .next t.completed := by
  rw [runInstr_eq _ _ _ h]
  simp only [inputPass, Res.bind_ok, hf, afterFn, writebackPass, finish_ok, State.completed]

theorem exec_nop (s : State) : exec .nop s = runInstr [] fnNothing s := rfl

theorem exec_hlt (s : State) : exec .hlt s = haltStep s := rfl

/-- Settles O15: NOP is the step over no operands with a function that leaves the advanced state, and HLT is
the halting step. -/
theorem nopAndHltResults : Obligations.NopAndHltResults := by
  intro s hres
  constructor
  · rw [exec_nop]
    exact runInstr_noOperands fnNothing Slots.zero s.advanced hres rfl
  · rw [exec_hlt, haltStep_eq s hres]

end Sys2Proof.Machine
end

section
/-! PROOFS. Registering a device: what a port map answers after a binding (R290, R291). -/

namespace Sys2Proof.Machine

theorem boundDevice_cons (e : Word × Nat) (m : List (Word × Nat)) (q : Word) :
    boundDevice (e :: m) q = if e.1 = q then some e.2 else boundDevice m q := by
  by_cases h : e.1 = q <;> simp [boundDevice, h]

/-- Dropping the entries of one port leaves the answer for every other port. -/
theorem boundDevice_filter_other (p q : Word) (m : List (Word × Nat)) (h : q ≠ p) :
    boundDevice (m.filter fun e => decide (e.1 ≠ p)) q = boundDevice m q := by
  induction m with
  | nil => rfl
  | cons e m ih =>
    by_cases he : e.1 = p
    · have hq : e.1 ≠ q := fun heq => h (heq.symm.trans he)
      rw [List.filter_cons_of_neg (by simpa using he), ih, boundDevice_cons, if_neg hq]
    · rw [List.filter_cons_of_pos (by simpa using he), boundDevice_cons, boundDevice_cons, ih]

/-- A binding overwrites the one of its port and no other (R291). -/
theorem boundDevice_bindPort (d : Nat) (p q : Word) (m : List (Word × Nat)) :
    boundDevice (bindPort d p m) q = if q = p then some d else boundDevice m q := by
  rw [bindPort, boundDevice_cons]
  by_cases h : q = p
  · rw [if_pos h, if_pos h.symm]
  · rw [if_neg h, if_neg (Ne.symm h), boundDevice_filter_other p q m h]

/-- After one device has bound a list of ports, each of them answers that device. -/
theorem boundDevice_bindPorts (d : Nat) (ports : List Word) (m : List (Word × Nat)) (q : Word) :
    boundDevice (ports.foldl (fun m p => bindPort d p m) m) q =
      if q ∈ ports then some d else boundDevice m q := by
  induction ports generalizing m with
  | nil => simp
  | cons p ports ih =>
    rw [List.foldl_cons, ih, boundDevice_bindPort]
    by_cases hrest : q ∈ ports
    · simp [hrest]
    · simp [hrest]

/-- Settles O41: both port maps are folds of single bindings; the reset list is the model's own, and only the
registry is replaced. -/
theorem registerDeviceBindsPorts : Obligations.RegisterDeviceBindsPorts := by
  intro d s p
  exact ⟨boundDevice_bindPorts d.id d.inputs s.registry.inMap p,
    boundDevice_bindPorts d.id d.outputs s.registry.outMap p, rfl, rfl⟩

end Sys2Proof.Machine
end

section
/-! PROOFS. What finishing a pending input leaves, for each kind of the recorded destination (R297). -/

namespace Sys2Proof.Machine

variable (s : State) (v : Nat)

/-- With an input pending, the call ends as the write of the recorded destination does, and a fault carries
the index recorded with it. -/
theorem finishPendingInput_pending (h : s.pending.valid = true) :
    finishPendingInput v s =
      finish s.pending.index ((writeTarget ⟨s.pending.kind, s.pending.value⟩ v s).bind fun t =>
        .ok ((t.withPending { t.pending with valid := false }).withStatus .ready)) :=
  if_neg (by simp [h])

/-- A destination that can be written takes the value; beyond that only PENDING.valid and STATUS change. -/
theorem finishPendingInput_canUse (h : s.pending.valid = true)
    (usable : s.canUse ⟨s.pending.kind, s.pending.value⟩) :
    finishPendingInput v s =
      .next (((s.assigned ⟨s.pending.kind, s.pending.value⟩ v).withPending
        { s.pending with valid := false }).withStatus .ready) := by
  rw [finishPendingInput_pending s v h, writeTarget_ok s _ _ usable, Res.bind_ok, finish_ok,
    State.assigned_pending]

theorem finishPendingInput_badKind (h : s.pending.valid = true)
    (bad : s.pending.kind = .unknown2 ∨ s.pending.kind = .unknown3) :
    finishPendingInput v s = .next (raiseFault .badOperandKind s.pending.index 0 s) := by
  rw [finishPendingInput_pending s v h, writeTarget_badKind s _ _ bad, Res.bind_raise, finish_raise]

/-- Settles O40: a literal and a register of the file are the two destinations that can be written, the one
leaving the machine and the other setting the register. -/
theorem resumeWritesDestinationOnly : Obligations.ResumeWritesDestinationOnly := by
  intro s v
  refine ⟨finishPendingInput_ignored s v, ?literal, ?register, finishPendingInput_badKind s v⟩
  case literal =>
    intro h isImm
    rw [finishPendingInput_canUse s v h (.inl isImm), State.assigned_imm s _ v isImm]
  case register =>
    intro h isReg inFile
    rw [finishPendingInput_canUse s v h (.inr ⟨isReg, inFile⟩), State.assigned_reg s _ v isReg]

end Sys2Proof.Machine
end

section
/-! PROOFS. The load checks, one rule per outcome, and what a load leaves in LOAD_ERR and STATUS (R351 to
R354, R356). -/

namespace Sys2Proof.Machine

theorem Width.maxValue_widthFor (b : Nat) : (widthFor b).maxValue = largestWord b := by
  unfold widthFor largestWord
  split_ifs <;> rfl

theorem largestWord_lt (b : Nat) : largestWord b < 2 ^ 32 := by
  unfold largestWord
  split_ifs <;> decide

/-! Header presence and the RUN mode (R351, R352). -/

theorem checkHeaders_missing (h : Headers)
    (missing : h.bits = none ∨ h.minheap = none ∨ h.minstack = none ∨ h.minreg = none ∨ h.run = none) :
    checkHeaders h = .error .missingHeader := by
  unfold checkHeaders
  split
  case h_1 bits heap stack minreg run => simp [bits, heap, stack, minreg, run] at missing
  case h_2 => rfl

/-- With all five headers present the RUN mode decides. -/
theorem checkHeaders_declared (h : Headers) (d : Declared) (mode : RunMode) (bits : h.bits = some d.bits)
    (heap : h.minheap = some d.heap) (stack : h.minstack = some d.stack)
    (minreg : h.minreg = some d.minreg) (run : h.run = some mode) :
    checkHeaders h = if mode = .rom then .ok d else .error .unsupportedRunMode := by
  simp only [checkHeaders, bits, heap, stack, minreg, run]

/-! Width and sizes (R353). -/

section Sizes

variable (d : Declared) (slen plen : Nat)

theorem checkSizes_bitsOutOfRange (h : d.bits < 1 ∨ 32 < d.bits) :
    checkSizes d slen plen = .error .bitsOutOfRange := if_pos h

variable (low : 1 ≤ d.bits) (high : d.bits ≤ 32)
include low high

theorem checkSizes_registerCountTooLarge (h : largestWord d.bits < d.minreg + 2) :
    checkSizes d slen plen = .error .registerCountTooLarge := by
  unfold checkSizes
  rw [if_neg (by omega), Width.maxValue_widthFor, if_pos h]

theorem checkSizes_memorySizeTooLarge (registers : d.minreg + 2 ≤ largestWord d.bits)
    (h : largestWord d.bits < slen + d.heap + d.stack) :
    checkSizes d slen plen = .error .memorySizeTooLarge := by
  unfold checkSizes
  rw [if_neg (by omega), Width.maxValue_widthFor, if_neg (Nat.not_lt.mpr registers), if_pos h]

/-- Sizes within the limits give a configuration whose M and NREG are those limits' own numbers. -/
theorem checkSizes_ok (registers : d.minreg + 2 ≤ largestWord d.bits)
    (memory : slen + d.heap + d.stack ≤ largestWord d.bits) :
    ∃ cfg, checkSizes d slen plen = .ok cfg ∧ cfg.m.toNat = largestWord d.bits ∧
      cfg.nreg.toNat = d.minreg + 2 := by
  have limit := largestWord_lt d.bits
  unfold checkSizes
  rw [if_neg (by omega), Width.maxValue_widthFor, if_neg (Nat.not_lt.mpr registers),
    if_neg (Nat.not_lt.mpr memory)]
  exact ⟨_, rfl, Nat.mod_eq_of_lt limit, Nat.mod_eq_of_lt (registers.trans_lt limit)⟩

end Sizes

/-! The checks in sequence: each one decides once those before it passed. -/

section Order

variable (p : Program)

theorem checkProgram_headersFail (e : LoadErr) (h : checkHeaders p.headers = .error e) :
    checkProgram p = .error e := by simp only [checkProgram, h]

variable (d : Declared) (headersPass : checkHeaders p.headers = .ok d)
include headersPass

theorem checkProgram_sizesFail (e : LoadErr)
    (h : checkSizes d p.static.length p.code.length = .error e) : checkProgram p = .error e := by
  simp only [checkProgram, headersPass, h]

theorem checkProgram_sizesPass (cfg : Cfg)
    (h : checkSizes d p.static.length p.code.length = .ok cfg) :
    checkProgram p = if p.code.all (codeItemOk cfg.m.toNat cfg.nreg.toNat) then .ok cfg
      else .error .malformedInstruction := by
  simp only [checkProgram, headersPass, h]

end Order

/-! What the load makes of the outcome (R355, R356). -/

theorem hostLoad_of_error {p : Program} {e : LoadErr} (h : checkProgram p = .error e) (s : State) :
    hostLoad p s = failLoad e s := by simp only [hostLoad, h]

theorem hostLoad_of_ok {p : Program} {cfg : Cfg} (h : checkProgram p = .ok cfg) (s : State) :
    hostLoad p s = initialise cfg p s := by simp only [hostLoad, h]

theorem hostLoad_rejects {p : Program} {e : LoadErr} (h : checkProgram p = .error e) (s : State) :
    (hostLoad p s).loadErr = e ∧ (hostLoad p s).status = .unloaded := by
  rw [hostLoad_of_error h]; exact ⟨rfl, rfl⟩

theorem hostLoad_accepts {p : Program} {cfg : Cfg} (h : checkProgram p = .ok cfg) (s : State) :
    (hostLoad p s).loadErr = .none ∧ (hostLoad p s).status = .ready := by
  rw [hostLoad_of_ok h]; exact ⟨rfl, rfl⟩

/-- Settles O52: each clause names the first check that fails, and the rules of the checks before it carry
the load past them. -/
theorem loadReportsFirstError : Obligations.LoadReportsFirstError := by
  intro p s
  refine ⟨fun missing => hostLoad_rejects (checkProgram_headersFail p _ (checkHeaders_missing _ missing)) s,
    ?present⟩
  intro b h k r mode bits heap stack minreg run
  have headers := checkHeaders_declared p.headers ⟨b, h, k, r⟩ mode bits heap stack minreg run
  have headersPass (rom : mode = .rom) : checkHeaders p.headers = .ok ⟨b, h, k, r⟩ := by
    rw [headers, if_pos rom]
  refine ⟨?runMode, ?bitsRange, ?registerCount, ?memorySize, ?malformed, ?accepted⟩
  case runMode =>
    intro notRom
    exact hostLoad_rejects (checkProgram_headersFail p _ (headers.trans (if_neg notRom))) s
  case bitsRange =>
    intro rom outside
    exact hostLoad_rejects (checkProgram_sizesFail p _ (headersPass rom) _
      (checkSizes_bitsOutOfRange _ _ _ outside)) s
  case registerCount =>
    intro rom low high tooMany
    exact hostLoad_rejects (checkProgram_sizesFail p _ (headersPass rom) _
      (checkSizes_registerCountTooLarge _ _ _ low high tooMany)) s
  case memorySize =>
    intro rom low high registers tooLarge
    exact hostLoad_rejects (checkProgram_sizesFail p _ (headersPass rom) _
      (checkSizes_memorySizeTooLarge _ _ _ low high registers tooLarge)) s
  case malformed =>
    intro rom low high registers memory ⟨item, inCode, bad⟩
    obtain ⟨cfg, sizes, hm, hnreg⟩ := checkSizes_ok ⟨b, h, k, r⟩ _ p.code.length low high registers memory
    have fails : ¬ p.code.all (codeItemOk cfg.m.toNat cfg.nreg.toNat) = true := by
      rw [hm, hnreg, List.all_eq_true]
      exact fun all => Bool.eq_false_iff.mp bad (all item inCode)
    exact hostLoad_rejects
      ((checkProgram_sizesPass p _ (headersPass rom) cfg sizes).trans (if_neg fails)) s
  case accepted =>
    intro rom low high registers memory all
    obtain ⟨cfg, sizes, hm, hnreg⟩ := checkSizes_ok ⟨b, h, k, r⟩ _ p.code.length low high registers memory
    have passes : p.code.all (codeItemOk cfg.m.toNat cfg.nreg.toNat) = true := by
      rw [hm, hnreg, List.all_eq_true]; exact all
    exact hostLoad_accepts
      ((checkProgram_sizesPass p _ (headersPass rom) cfg sizes).trans (if_pos passes)) s

end Sys2Proof.Machine
end

section
/-! PROOFS. What reset() does to a loaded and to an UNLOADED machine (R357, R299). -/

namespace Sys2Proof.Machine

/-- One call of each reset hook, in the order of RESET_LIST (R299). -/
def State.hookCalls (s : State) : List OutputEvent :=
  (List.range s.registry.resetList.length).map OutputEvent.reset

variable (s t : State)

/-! What initialisation depends on, and what it keeps (R355). -/

theorem reinitialise_regs (h : t.cfg = s.cfg) : (reinitialise t).regs = (reinitialise s).regs := by
  simp only [reinitialise, h]

theorem reinitialise_mem (hcfg : t.cfg = s.cfg) (hprog : t.prog = s.prog) :
    (reinitialise t).mem = (reinitialise s).mem := by
  simp only [reinitialise, hcfg, hprog]

theorem reinitialise_sameSetup : SameSetup t (reinitialise t) := ⟨rfl, rfl, rfl, rfl⟩

/-- A load that succeeds leaves the registers and memory that initialising its own result would give. -/
theorem hostLoad_initialised (p : Program) (ready : (hostLoad p s).status = .ready) :
    (hostLoad p s).regs = (reinitialise (hostLoad p s)).regs ∧
      (hostLoad p s).mem = (reinitialise (hostLoad p s)).mem := by
  cases h : checkProgram p with
  | error e => rw [(hostLoad_rejects h s).2] at ready; cases ready
  | ok cfg => rw [hostLoad_of_ok h]; exact ⟨rfl, rfl⟩

theorem hostReset_loaded (h : t.status ≠ .unloaded) :
    hostReset t = { reinitialise t with output := t.output ++ t.hookCalls } := by
  simp only [hostReset, if_neg h]; rfl

theorem hostReset_unloaded (h : t.status = .unloaded) :
    hostReset t = { t with output := t.output ++ t.hookCalls } := by
  simp only [hostReset, if_pos h]; rfl

theorem hostReset_sameSetup : SameSetup t (hostReset t) := by
  by_cases h : t.status = .unloaded
  · rw [hostReset_unloaded t h]; exact ⟨rfl, rfl, rfl, rfl⟩
  · rw [hostReset_loaded t h]; exact reinitialise_sameSetup t

theorem hostReset_output : (hostReset t).output = t.output ++ t.hookCalls := by
  by_cases h : t.status = .unloaded
  · rw [hostReset_unloaded t h]
  · rw [hostReset_loaded t h]

/-- Settles O55: a load and a reset() run the one initialisation, which reads the configuration and the
program store alone; the hooks add to the output history and to nothing else. -/
theorem resetRestoresLoadedState : Obligations.ResetRestoresLoadedState := by
  intro p s t
  refine ⟨?loaded, hostReset_sameSetup t, hostReset_output t, ?unloaded⟩
  case loaded =>
    intro isLoaded ready hcfg hprog
    obtain ⟨regs, mem⟩ := hostLoad_initialised s p ready
    rw [hostReset_loaded t isLoaded, regs, mem]
    exact ⟨reinitialise_regs _ _ hcfg, reinitialise_mem _ _ hcfg hprog, rfl, rfl, rfl⟩
  case unloaded =>
    intro h
    rw [hostReset_unloaded t h]

end Sys2Proof.Machine
end

section
/-! PROOFS. Packing and decoding are inverse: what the decoder answers, said once for every record (R95, R96,
R102), and what a load accepts (R354). -/

namespace Sys2Proof

/-! The number of operands (R94). -/

theorem Instr.operands_length_le (i : Instr) : i.operands.length ≤ 3 := by
  cases i <;> simp [Instr.operands]

theorem operandCount_opcodeOf (i : Instr) :
    operandCount (opcodeOf i).toNat = some i.operands.length := by
  cases i <;> rfl

theorem operandCount_unknown (opc : Nat) (h : 0x45 ≤ opc) : operandCount opc = none := by
  unfold operandCount dispatchRoles
  split
  · omega
  · split
    case h_69 => rfl
    all_goals omega

/-! The slots of a packed record (R95). -/

variable (opc : BitVec 8) (ops : List Operand)

theorem fieldOpc_packRecord : fieldOpc (packRecord opc ops) = opc.toNat := fieldOpc_packSlots ..

theorem fieldRsv_packRecord : fieldRsv (packRecord opc ops) = 0 := fieldRsv_packSlots ..

theorem operandAt_packRecord (j : Nat) (h : j < 3) :
    operandAt (packRecord opc ops) j = ops[j]?.getD emptySlot := by
  match j, h with
  | 0, _ => exact operandAt_zero_packSlots ..
  | 1, _ => exact operandAt_one_packSlots ..
  | 2, _ => exact operandAt_two_packSlots ..

theorem slotUnused_iff (w : PackedWord) (j : Nat) : slotUnused w j = true ↔ operandAt w j = emptySlot :=
  decide_eq_true_iff

/-- A record whose RSV is 0 is the packing of any operands that its slots hold. -/
theorem packRecord_eq (w : PackedWord) (hopc : fieldOpc w = opc.toNat) (hrsv : fieldRsv w = 0)
    (slots : ∀ j < 3, ops[j]?.getD emptySlot = operandAt w j) : packRecord opc ops = w := by
  have code : opc = w.extractLsb' 0 8 := (BitVec.eq_of_toNat_eq hopc).symm
  rw [packRecord, slots 0 (by decide), slots 1 (by decide), slots 2 (by decide), code,
    packSlots_fields w hrsv]

/-! Decoding. -/

/-- Settles O1: the OPC field selects the arm of the instruction's own opcode, and each format reads back the
operands that were packed in it. -/
theorem decodeInvertsEncode : Obligations.DecodeInvertsEncode := by
  intro i
  unfold decode
  rw [encode, fieldOpc_packRecord]
  cases i
  case nop | ret | hlt => exact form0_packSlots ..
  case jmp | psh | pop | cal => exact form1_packSlots ..
  case rsh | lod | str | imm | mov | lsh | inc | dec | neg | not | bod | bev | brz | bnz | brn | brp | cpy
      | srs | abs | inPort | outPort =>
    exact form2_packSlots ..
  all_goals exact form3_packSlots ..

/-- An assigned opcode makes the decoder check RSV and the unused slots, and nothing more, of an instruction
of that opcode whose operands are those of the record's slots (R95, R104). -/
theorem decode_eq_checked (w : PackedWord) (known : fieldOpc w < 0x45) :
    ∃ i unused, decode w = checked w unused i ∧ unused = (List.range 3).drop i.operands.length ∧
      fieldOpc w = (opcodeOf i).toNat ∧ i.operands = (List.range i.operands.length).map (operandAt w) := by
  unfold decode
  split
  case h_70 => simp only [imp_false] at *; omega
  all_goals
    rename_i code
    exact ⟨_, _, rfl, rfl, code, rfl⟩

theorem mem_unused_iff (n j : Nat) : j ∈ (List.range 3).drop n ↔ n ≤ j ∧ j < 3 := by
  rw [List.mem_drop_iff_getElem]
  constructor
  · rintro ⟨i, hi, rfl⟩
    rw [List.length_range] at hi
    rw [List.getElem_range]
    omega
  · rintro ⟨low, high⟩
    refine ⟨j - n, by rw [List.length_range]; omega, ?_⟩
    rw [List.getElem_range]
    omega

/-- The operand slots of a decoded record: its instruction's operands, and 0 past them (R95). -/
theorem decode_ok_fields (w : PackedWord) (i : Instr) (h : decode w = .ok i) :
    fieldOpc w = (opcodeOf i).toNat ∧ fieldRsv w = 0 ∧
      ∀ j < 3, i.operands[j]?.getD emptySlot = operandAt w j := by
  have known : fieldOpc w < 0x45 := by
    by_contra unknown
    rw [Machine.decode_unknownOpcode w (by omega)] at h
    cases h
  obtain ⟨i', unused, hdecode, hunused, code, hops⟩ := decode_eq_checked w known
  rw [hdecode, checked_eq_ok] at h
  obtain ⟨rsv, empty, rfl⟩ := h
  refine ⟨code, rsv, fun j hj => ?_⟩
  by_cases used : j < i'.operands.length
  · rw [hops]
    simp [used]
  · have slot := List.all_eq_true.mp empty j (hunused ▸ (mem_unused_iff _ _).mpr ⟨by omega, hj⟩)
    rw [List.getElem?_eq_none (by omega), (slotUnused_iff w j).mp slot]
    rfl

/-- Settles O2: the instruction's operands fill the slots they were read from, and the slots past them are
empty in both. -/
theorem encodeInvertsDecode : Obligations.EncodeInvertsDecode := by
  intro w i h
  obtain ⟨code, rsv, slots⟩ := decode_ok_fields w i h
  exact packRecord_eq _ _ w code rsv slots

/-- Settles O3: each word is evaluated by the decoder. -/
theorem sampleWordsDecode : Obligations.SampleWordsDecode := by
  unfold Obligations.SampleWordsDecode
  decide

/-- Settles O4: past an assigned opcode the decoder is the check, which tests RSV first and then exactly the
slots from the operand count on. -/
theorem reservedEncodingsRejected : Obligations.ReservedEncodingsRejected := by
  intro w
  refine ⟨Machine.decode_unknownOpcode w, ?reservedBits, ?unusedSlot⟩
  case reservedBits =>
    intro known rsv
    obtain ⟨i, unused, hdecode, -, -, -⟩ := decode_eq_checked w known
    rw [hdecode, checked, if_pos rsv]
  case unusedSlot =>
    rintro known rsv ⟨n, j, count, low, high, nonzero⟩
    obtain ⟨i, unused, hdecode, hunused, code, -⟩ := decode_eq_checked w known
    rw [code, operandCount_opcodeOf, Option.some_inj] at count
    have listed : j ∈ unused := by
      rw [hunused, count]; exact (mem_unused_iff n j).mpr ⟨low, high⟩
    have fails : ¬ unused.all (slotUnused w) = true := fun all =>
      nonzero ((slotUnused_iff w j).mp (List.all_eq_true.mp all j listed))
    rw [hdecode, checked, if_neg (by simp [rsv]), if_neg fails]

/-! The load checks (R97, R98, R354). -/

theorem Operand.wellFormed_eq_false (m nreg : Nat) (o : Operand) :
    o.wellFormed m nreg = false ↔
      (o.kind = .imm ∧ m < o.value.toNat) ∨ (o.kind = .reg ∧ nreg ≤ o.value.toNat) := by
  cases h : o.kind <;> simp [Operand.wellFormed, h]

theorem Instr.wellFormed_eq_false (m nreg : Nat) (i : Instr) :
    i.wellFormed m nreg = false ↔ ∃ o ∈ i.operands,
      (o.kind = .imm ∧ m < o.value.toNat) ∨ (o.kind = .reg ∧ nreg ≤ o.value.toNat) := by
  simp only [Instr.wellFormed, List.all_eq_false, Bool.not_eq_true, Operand.wellFormed_eq_false]

namespace Machine

variable (m nreg : Nat)

theorem packedOk_ok {w : PackedWord} {i : Instr} (h : decode w = .ok i) :
    packedOk m nreg w = i.wellFormed m nreg := by
  simp only [packedOk, h]

theorem packedOk_error {w : PackedWord} {e : DecodeError} (h : decode w = .error e) :
    packedOk m nreg w = true ↔ e = .unknownOpcode := by
  cases e <;> simp [packedOk, h]

theorem kindCode_cases (kind : BitVec 2) : kind = 0 ∨ kind = 1 ∨ kind = 2 ∨ kind = 3 := by
  revert kind
  decide

/-- The check of a value given outside a record sees its full size (R354). -/
theorem rawOperandOk_iff (kind : BitVec 2) (value : Nat) :
    rawOperandOk m nreg kind value = true ↔
      (kind = 0 → value ≤ m) ∧ (kind = 1 → value < nreg) := by
  rcases kindCode_cases kind with rfl | rfl | rfl | rfl <;> simp [rawOperandOk, Kind.ofCode]

variable (opc : BitVec 8) (ks : List (BitVec 2)) (vs : List Nat)

theorem codeItemOk_fields_unknown (h : operandCount opc.toNat = none) :
    codeItemOk m nreg (.fields opc ks vs) = true := by
  simp only [codeItemOk, h]

theorem codeItemOk_fields_known (n : Nat) (h : operandCount opc.toNat = some n) :
    codeItemOk m nreg (.fields opc ks vs) = true ↔
      ks.length = n ∧ vs.length = n ∧
        ∀ kv ∈ ks.zip vs, (kv.1 = 0 → kv.2 ≤ m) ∧ (kv.1 = 1 → kv.2 < nreg) := by
  simp only [codeItemOk, h, Bool.and_eq_true, decide_eq_true_eq, List.all_eq_true, rawOperandOk_iff,
    and_assoc]

/-- Settles O5: one rule per form of an item and outcome of its decoding. -/
theorem loadChecksRecords : Obligations.LoadChecksRecords := by
  intro m nreg
  refine ⟨fun w i h => ?_, fun w e h => packedOk_error m nreg h, codeItemOk_fields_unknown m nreg,
    codeItemOk_fields_known m nreg⟩
  change packedOk m nreg w = false ↔ _
  rw [packedOk_ok m nreg h, Instr.wellFormed_eq_false]

end Machine
end Sys2Proof
end

section
/-! PROOFS. The machine's invariant: what it needs of each update a step or a host call makes, and that every
step keeps it (R30, R43, R44, R60, R98, R120). -/

namespace Sys2Proof.Machine

variable {s t : State}

theorem State.loaded_of_steppable (h : s.steppable = true) : s.status ≠ .unloaded := by
  rcases s.steppable_iff.mp h with h | h <;> simp [h]

theorem State.not_faulted_of_steppable (h : s.steppable = true) : s.status ≠ .faulted := by
  rcases s.steppable_iff.mp h with h | h <;> simp [h]

theorem State.not_awaiting_of_steppable (h : s.steppable = true) : s.status ≠ .awaitingInput := by
  rcases s.steppable_iff.mp h with h | h <;> simp [h]

/-! One rule per update. -/

theorem State.Inv.pending_invalid (inv : s.Inv) (h : s.status ≠ .awaitingInput) :
    s.pending.valid = false :=
  Bool.eq_false_iff.mpr fun valid => h (inv.pendingStatus.mp valid)

theorem State.Inv.fault_none (inv : s.Inv) (h : s.status ≠ .faulted) : s.fault.code = .none := by
  by_contra recorded
  exact h (inv.faultStatus.mp recorded)

/-- Writes of W-bit words to registers and memory, and events of the environment, keep the invariant of a
machine whose register file no fault has recorded. -/
theorem Evolves.inv (h : Evolves s t) (inv : s.Inv) (notFaulted : s.status ≠ .faulted) : t.Inv where
  configured := by rw [h.status, h.cfg, h.prog]; exact inv.configured
  discarded := by rw [h.status, h.cfg, h.prog]; exact inv.discarded
  fileLength := by rw [h.fileLength, h.cfg]; exact inv.fileLength
  regWords v hv := by
    rw [h.cfg]
    exact (h.regWords v hv).elim (inv.regWords v) id
  memCanonical := h.memCanonical inv.memCanonical
  memWords c hc := by
    have hm : t.msize = s.msize := by simp only [State.msize, h.cfg]
    rw [h.cfg, hm]
    exact (h.memWords c hc).elim (inv.memWords c) id
  programChecked := by rw [h.cfg, h.prog]; exact inv.programChecked
  pendingStatus := by rw [h.pending, h.status]; exact inv.pendingStatus
  pendingTarget := by rw [h.pending, h.cfg]; exact inv.pendingTarget
  faultStatus := by rw [h.fault, h.status]; exact inv.faultStatus
  faultSnapshot faulted := absurd (h.status ▸ faulted) notFaulted
  loadErrCleared := by rw [h.status, h.loadErr]; exact inv.loadErrCleared

/-- A loaded machine without a fault may stop in READY or HALTED once nothing is pending. -/
theorem State.Inv.settled (inv : s.Inv) (loaded : s.status ≠ .unloaded) (noFault : s.fault.code = .none)
    (p : Pending) (cleared : p.valid = false) (st : Status) (hst : st = .ready ∨ st = .halted) :
    ((s.withPending p).withStatus st).Inv :=
  { inv with
    configured := fun _ => inv.configured loaded
    discarded := by rintro rfl; simp at hst
    pendingStatus := by rcases hst with rfl | rfl <;> simp [cleared]
    pendingTarget := by simp [cleared]
    faultStatus := by rcases hst with rfl | rfl <;> simp [noFault]
    faultSnapshot := by rintro rfl; simp at hst
    loadErrCleared := fun _ => inv.loadErrCleared loaded }

theorem State.Inv.suspended (inv : s.Inv) (hs : s.steppable = true) (cur : Word) (tgt : Operand)
    (inFile : tgt.kind = .reg → tgt.value.toNat < s.regs.length) : (suspend cur tgt s).Inv :=
  have loaded := State.loaded_of_steppable hs
  { inv with
    configured := fun _ => inv.configured loaded
    discarded := nofun
    pendingStatus := by simp [suspend]
    pendingTarget := fun _ isReg => inv.fileLength ▸ inFile isReg
    faultStatus := by simp [suspend, inv.fault_none (State.not_faulted_of_steppable hs)]
    faultSnapshot := nofun
    loadErrCleared := fun _ => inv.loadErrCleared loaded }

/-- Taking a fault records the register file as it is (R321). -/
theorem State.Inv.raised (inv : s.Inv) (loaded : s.status ≠ .unloaded) (c : FaultCode) (hc : c ≠ .none)
    (pc : Word) (info : Nat) : (raiseFault c pc info s).Inv :=
  { inv with
    configured := fun _ => inv.configured loaded
    discarded := nofun
    pendingStatus := by simp
    pendingTarget := by simp
    faultStatus := by simp [faultRecord, hc]
    faultSnapshot := fun _ => rfl
    loadErrCleared := fun _ => inv.loadErrCleared loaded }

/-! The step. -/

/-- Each of the four ways a step ends keeps the invariant. -/
theorem StepEnds.inv {cur : Word} {tgt : Operand} (ends : StepEnds s cur tgt (.next t)) (inv : s.Inv)
    (hs : s.steppable = true) (inFile : tgt.kind = .reg → tgt.value.toNat < s.regs.length) : t.Inv := by
  have notFaulted := State.not_faulted_of_steppable hs
  have keeps {u : State} (h : Evolves s u) : u.Inv ∧ u.steppable = true :=
    ⟨h.inv inv notFaulted, by simpa only [State.steppable, h.status] using hs⟩
  have settles {u : State} (h : Evolves s u) (st : Status) (hst : st = .ready ∨ st = .halted) :
      (u.withStatus st).Inv := by
    obtain ⟨uInv, hu⟩ := keeps h
    exact uInv.settled (State.loaded_of_steppable hu)
      (uInv.fault_none (State.not_faulted_of_steppable hu)) u.pending
      (uInv.pending_invalid (State.not_awaiting_of_steppable hu)) st hst
  cases ends with
  | continued u h => exact settles h .ready (.inl rfl)
  | halted u h => exact settles h .halted (.inr rfl)
  | suspended u h =>
    obtain ⟨uInv, hu⟩ := keeps h
    exact uInv.suspended hu cur tgt (h.fileLength ▸ inFile)
  | faulted u c i hc h =>
    obtain ⟨uInv, hu⟩ := keeps h
    exact uInv.raised (State.loaded_of_steppable hu) c hc cur i

theorem State.steppable_of_step_next (h : step s = .next t) : s.steppable = true := by
  by_contra hs
  rw [step_refused s hs] at h
  cases h

/-- Settles O57: only READY and HALTED machines step, the invariant makes them executable, and each way an
executable machine's step ends keeps it. -/
theorem stepKeepsInvariant : Obligations.StepKeepsInvariant := by
  intro s t inv h
  have hs : s.steppable = true := State.steppable_of_step_next h
  obtain ⟨tgt, inFile, ends⟩ := (inv.executable (State.loaded_of_steppable hs)).step_stepEnds hs
  rw [h] at ends
  exact ends.inv inv hs inFile

/-- The four outcomes of a step leave four statuses (R41, R120). -/
theorem StepEnds.status {cur : Word} {tgt : Operand} {out : Outcome} (ends : StepEnds s cur tgt out) :
    ∃ t, out = .next t ∧
      (t.status = .ready ∨ t.status = .halted ∨ t.status = .awaitingInput ∨ t.status = .faulted) := by
  cases ends with
  | continued u _ => exact ⟨_, rfl, .inl rfl⟩
  | halted u _ => exact ⟨_, rfl, .inr (.inl rfl)⟩
  | suspended u _ => exact ⟨_, rfl, .inr (.inr (.inl rfl))⟩
  | faulted u c i _ _ => exact ⟨_, rfl, .inr (.inr (.inr rfl))⟩

/-- Settles O12: the invariant makes the machine executable, and an executable machine's step ends in one of
the four ways. -/
theorem stepAlwaysProceeds : Obligations.StepAlwaysProceeds := by
  intro s inv hstatus
  have hs : s.steppable = true := s.steppable_iff.mpr hstatus
  obtain ⟨tgt, -, ends⟩ := (inv.executable (State.loaded_of_steppable hs)).step_stepEnds hs
  exact ends.status

/-- Settles O8: below PLEN the fetch finds the record and decodes it. -/
theorem stepRunsDecodedInstruction : Obligations.StepRunsDecodedInstruction := by
  intro s w i hres hstatus hpc hw hd
  exact step_instr s i (s.steppable_iff.mpr hstatus) (fetch_instr s w i hres hpc hw hd)

/-! Taking a fault (R321). -/

theorem faultAddr_eq (c : FaultCode) (info : Nat) :
    faultAddr c info = if c = .loadOutOfBounds ∨ c = .storeOutOfBounds then info else 0 := by
  cases c <;> rfl

theorem faultAccess_eq (c : FaultCode) :
    faultAccess c =
      if c = .loadOutOfBounds then .load else if c = .storeOutOfBounds then .store else .none := by
  cases c <;> rfl

/-- Settles O42: the fault record holds the code, the index, the two fields the code selects and the register
file; the other fields are the updates of R321, and FAULTED refuses the next step. -/
theorem fatalFaultEffects : Obligations.FatalFaultEffects := by
  intro s code pc info
  have refused : ¬ (raiseFault code pc info s).steppable = true := by simp [State.steppable]
  exact ⟨rfl, rfl, faultAddr_eq code info, faultAccess_eq code, rfl, rfl, rfl, rfl, rfl,
    step_refused _ refused⟩

/-! Power-on (R50, R350). -/

/-- Settles O51: the fields of the power-on state, whose STATUS refuses a step. -/
theorem powerOnIsUnloaded : Obligations.PowerOnIsUnloaded :=
  ⟨rfl, rfl, rfl, rfl, rfl, step_refused State.reset (by decide)⟩

/-- A machine that holds nothing, in UNLOADED, meets the invariant: this is what power-on and a failed load
leave (R350, R356). -/
theorem State.inv_of_discarded (status : s.status = .unloaded) (cfg : s.cfg = Cfg.none)
    (prog : s.prog = ProgramStore.empty) (regs : s.regs = []) (mem : s.mem = [])
    (pending : s.pending.valid = false) (fault : s.fault.code = .none) : s.Inv where
  configured h := absurd status h
  discarded _ := ⟨cfg, prog⟩
  fileLength := by rw [regs, cfg]; rfl
  regWords := by simp [regs]
  memCanonical := by rw [mem]; decide
  memWords := by simp [mem]
  programChecked := by simp [prog, ProgramStore.empty]
  pendingStatus := by simp [pending, status]
  pendingTarget := by simp [pending]
  faultStatus := by simp [fault, status]
  faultSnapshot h := by simp [status] at h
  loadErrCleared h := absurd status h

/-- Settles O56: the power-on state holds nothing. -/
theorem powerOnMeetsInvariant : Obligations.PowerOnMeetsInvariant :=
  State.inv_of_discarded rfl rfl rfl rfl rfl rfl rfl

end Sys2Proof.Machine
end

section
/-! PROOFS. What an instruction's execution function does, in ten classes instead of one case per instruction:
a statement about every instruction is a case analysis on `exec_behaves` (R100, R104). -/

namespace Sys2Proof.Machine

/-- The function fills slots from the configuration and the slots, and leaves the machine alone. -/
def Fn.Computes (fn : Fn) : Prop :=
  ∃ g : Cfg → Slots → Slots, ∀ o s, fn o s = .ok (.complete (g s.cfg o) s)

/-- The function writes the slot a to the PC when a condition over the slots holds, and does nothing else
(R240). -/
def Fn.Branches (fn : Fn) : Prop :=
  ∃ taken : Cfg → Slots → Bool, ∀ o s,
    fn o s = if taken s.cfg o then jumpTo o.a o s else .ok (.complete o s)

theorem fnUnary_computes (f : Cfg → Word → Int) : Fn.Computes (fnUnary f) :=
  ⟨fun cfg o => { o with a := trunc cfg.w (f cfg o.b) }, fun _ _ => rfl⟩
theorem fnBinary_computes (f : Cfg → Word → Word → Int) : Fn.Computes (fnBinary f) :=
  ⟨fun cfg o => { o with a := trunc cfg.w (f cfg o.b o.c) }, fun _ _ => rfl⟩
theorem fnSetIf_computes (cond : Cfg → Word → Word → Bool) : Fn.Computes (fnSetIf cond) :=
  ⟨fun cfg o => { o with a := if cond cfg o.b o.c then cfg.m else 0 }, fun _ _ => rfl⟩
theorem fnCopyB_computes : Fn.Computes fnCopyB := ⟨fun _ o => { o with a := o.b }, fun _ _ => rfl⟩
theorem fnCopyC_computes : Fn.Computes fnCopyC := ⟨fun _ o => { o with a := o.c }, fun _ _ => rfl⟩

theorem fnNothing_branches : Fn.Branches fnNothing := ⟨fun _ _ => false, fun _ _ => rfl⟩
theorem fnJump_branches : Fn.Branches fnJump := ⟨fun _ _ => true, fun _ _ => rfl⟩
theorem fnBranchUnary_branches (cond : Cfg → Word → Bool) : Fn.Branches (fnBranchUnary cond) :=
  ⟨fun cfg o => cond cfg o.b, fun _ _ => rfl⟩
theorem fnBranchBinary_branches (cond : Cfg → Word → Word → Bool) : Fn.Branches (fnBranchBinary cond) :=
  ⟨fun cfg o => cond cfg o.b o.c, fun _ _ => rfl⟩

/-- The class of an instruction's execution function `fn`, `roles` being its role list. Only operand 0 is ever
an output, and only where the function does not write the PC. -/
inductive Behaves : Instr → List Role → Fn → Prop
  | computes {i : Instr} {r : Role} {rest : List Role} {fn : Fn} (inputs : ∀ x ∈ rest, inputRole x = true)
    (h : fn.Computes) : Behaves i (r :: rest) fn
  | divides {i : Instr} (f : Cfg → Word → Word → Int)
    (h : opcodeOf i ∈ [(0x29 : BitVec 8), 0x2A, 0x39]) : Behaves i [.set, .get, .get] (fnDivide f)
  | branches {i : Instr} {roles : List Role} {fn : Fn} (inputs : ∀ x ∈ roles, inputRole x = true)
    (h : fn.Branches) : Behaves i roles fn
  | pushes (a : Operand) : Behaves (.psh a) [.get] fnPush
  | calls (a : Operand) : Behaves (.cal a) [.get] fnCall
  | pops (a : Operand) : Behaves (.pop a) [.set] fnPop
  | returns : Behaves .ret [] fnReturn
  | inputs (a b : Operand) : Behaves (.inPort a b) [.set, .get] fnIn
  | outputs (a b : Operand) : Behaves (.outPort a b) [.get, .get] fnOut

/-- Every instruction but HLT is the dispatcher over the role list of its opcode and an execution function of
one of the classes (R99, R100, R131). -/
theorem exec_behaves (i : Instr) (h : i ≠ .hlt) :
    ∃ roles fn, dispatchRoles (opcodeOf i).toNat = some roles ∧
      (∀ s, exec i s = runInstr (roles.zip i.operands) fn s) ∧ Behaves i roles fn := by
  cases i
  case hlt => exact absurd rfl h
  case rsh | lsh | inc | dec | neg | not | srs | abs =>
    exact ⟨_, _, rfl, fun _ => rfl, .computes (by decide) (fnUnary_computes _)⟩
  case add | sub | mlt | and | or | xor | nor | nand | xnor | bsr | bsl | bss =>
    exact ⟨_, _, rfl, fun _ => rfl, .computes (by decide) (fnBinary_computes _)⟩
  case sete | setne | setg | setl | setge | setle | setc | setnc | ssetl | ssetg | ssetle | ssetge =>
    exact ⟨_, _, rfl, fun _ => rfl, .computes (by decide) (fnSetIf_computes _)⟩
  case imm | mov | lod | str | cpy =>
    exact ⟨_, _, rfl, fun _ => rfl, .computes (by decide) fnCopyB_computes⟩
  case llod | lstr => exact ⟨_, _, rfl, fun _ => rfl, .computes (by decide) fnCopyC_computes⟩
  case div | mod | sdiv => exact ⟨_, _, rfl, fun _ => rfl, .divides _ (by simp [opcodeOf])⟩
  case nop => exact ⟨_, _, rfl, fun _ => rfl, .branches (by decide) fnNothing_branches⟩
  case jmp => exact ⟨_, _, rfl, fun _ => rfl, .branches (by decide) fnJump_branches⟩
  case brz | bnz | brn | brp | bod | bev =>
    exact ⟨_, _, rfl, fun _ => rfl, .branches (by decide) (fnBranchUnary_branches _)⟩
  case bge | brl | brg | ble | bre | bne | brc | bnc | sbrl | sbrg | sble | sbge =>
    exact ⟨_, _, rfl, fun _ => rfl, .branches (by decide) (fnBranchBinary_branches _)⟩
  case psh a => exact ⟨_, _, rfl, fun _ => rfl, .pushes a⟩
  case cal a => exact ⟨_, _, rfl, fun _ => rfl, .calls a⟩
  case pop a => exact ⟨_, _, rfl, fun _ => rfl, .pops a⟩
  case ret => exact ⟨_, _, rfl, fun _ => rfl, .returns⟩
  case inPort a b => exact ⟨_, _, rfl, fun _ => rfl, .inputs a b⟩
  case outPort a b => exact ⟨_, _, rfl, fun _ => rfl, .outputs a b⟩

end Sys2Proof.Machine
end

section
/-! PROOFS. Two machines that agree on everything a program can read make the same step: a relation kept by
every piece of a step, from the register access to the whole (R328, R331). -/

namespace Sys2Proof.Machine

/-- `t1` and `t2`, reached from `s1` and `s2`, agree on everything a program can read; each kept its own
setup, and both histories grew by the same events. -/
structure Lockstep (s1 s2 t1 t2 : State) : Prop where
  cfg : t2.cfg = t1.cfg
  status : t2.status = t1.status
  regs : t2.regs = t1.regs
  mem : t2.mem = t1.mem
  prog : t2.prog = t1.prog
  registry : t2.registry = t1.registry
  oracle : t2.oracle = t1.oracle
  setup : SameSetup s1 t1
  output : ∃ es, t1.output = s1.output ++ es ∧ t2.output = s2.output ++ es
  diagnostics : ∃ ds, t1.diagnostics = s1.diagnostics ++ ds ∧ t2.diagnostics = s2.diagnostics ++ ds

/-- Two pieces of a step end alike: with related results, with the same fault in states in lockstep, or
stuck for the same reason. -/
inductive ResAlike {α : Type} (s1 s2 : State) (R : α → α → Prop) : Res α → Res α → Prop
  | ok {a b : α} (h : R a b) : ResAlike s1 s2 R (.ok a) (.ok b)
  | raise (c : FaultCode) (i : Nat) {t1 t2 : State} (h : Lockstep s1 s2 t1 t2) :
    ResAlike s1 s2 R (.raise c i t1) (.raise c i t2)
  | stuck (f : Fault) : ResAlike s1 s2 R (.stuck f) (.stuck f)

/-- Two answers of an execution function: the same slots, and machines in lockstep. -/
inductive FnAlike (s1 s2 : State) : FnResult → FnResult → Prop
  | complete (o : Slots) {t1 t2 : State} (h : Lockstep s1 s2 t1 t2) :
    FnAlike s1 s2 (.complete o t1) (.complete o t2)
  | incomplete {t1 t2 : State} (h : Lockstep s1 s2 t1 t2) : FnAlike s1 s2 (.incomplete t1) (.incomplete t2)

variable {s1 s2 t1 t2 : State}

theorem ResAlike.bind {α β : Type} {R : α → α → Prop} {Q : β → β → Prop} {r1 r2 : Res α}
    {k1 k2 : α → Res β} (h : ResAlike s1 s2 R r1 r2)
    (hk : ∀ a b, R a b → ResAlike s1 s2 Q (k1 a) (k2 b)) :
    ResAlike s1 s2 Q (r1.bind k1) (r2.bind k2) := by
  cases h with
  | ok h => exact hk _ _ h
  | raise c i h => exact .raise c i h
  | stuck f => exact .stuck f

/-! The updates of the state. -/

section Updates

variable (h : Lockstep s1 s2 t1 t2)
include h

theorem Lockstep.withRegs (r : List Word) : Lockstep s1 s2 (t1.withRegs r) (t2.withRegs r) :=
  { h with regs := rfl }

theorem Lockstep.withMem (m : Memory) : Lockstep s1 s2 (t1.withMem m) (t2.withMem m) :=
  { h with mem := rfl }

theorem Lockstep.withStatus (st : Status) : Lockstep s1 s2 (t1.withStatus st) (t2.withStatus st) :=
  { h with status := rfl }

theorem Lockstep.withOracle (o : Oracle) : Lockstep s1 s2 (t1.withOracle o) (t2.withOracle o) :=
  { h with oracle := rfl }

/-- PENDING is no part of the agreement. -/
theorem Lockstep.withPending (p1 p2 : Pending) :
    Lockstep s1 s2 (t1.withPending p1) (t2.withPending p2) := { h with }

/-- The fault registers are no part of the agreement. -/
theorem Lockstep.withFault (f1 f2 : FaultRecord) : Lockstep s1 s2 (t1.withFault f1) (t2.withFault f2) :=
  { h with }

theorem Lockstep.emit (e : OutputEvent) : Lockstep s1 s2 (t1.emit e) (t2.emit e) :=
  { h with
    output := by
      obtain ⟨es, h1, h2⟩ := h.output
      exact ⟨es ++ [e], by simp [h1], by simp [h2]⟩ }

theorem Lockstep.report (e : DiagnosticEvent) : Lockstep s1 s2 (t1.report e) (t2.report e) :=
  { h with
    diagnostics := by
      obtain ⟨ds, h1, h2⟩ := h.diagnostics
      exact ⟨ds ++ [e], by simp [h1], by simp [h2]⟩ }

theorem Lockstep.msize : t2.msize = t1.msize := by rw [State.msize, h.cfg, State.msize]

theorem Lockstep.hsb : t2.hsb = t1.hsb := by rw [State.hsb, h.cfg, State.hsb]

theorem Lockstep.suspend (cur : Word) (tgt : Operand) :
    Lockstep s1 s2 (suspend cur tgt t1) (suspend cur tgt t2) := (h.withPending _ _).withStatus _

/-- The fault record shows the register file alone, on which the two agree (R321). -/
theorem Lockstep.raiseFault (c : FaultCode) (pc : Word) (info : Nat) :
    Lockstep s1 s2 (raiseFault c pc info t1) (raiseFault c pc info t2) := by
  have record : faultRecord c pc info t2 = faultRecord c pc info t1 := by
    rw [faultRecord, h.regs, faultRecord]
  unfold Machine.raiseFault
  rw [record]
  exact (((h.withFault _ _).withPending _ _).withStatus _).report _

/-! Registers, memory, stack and ports. -/

theorem Lockstep.readReg (i : Nat) : ResAlike s1 s2 Eq (readReg i t1) (readReg i t2) := by
  unfold Machine.readReg
  rw [h.regs]
  cases t1.regs[i]? with
  | some v => exact .ok rfl
  | none => exact .stuck _

theorem Lockstep.writeReg (i : Nat) (v : Int) :
    ResAlike s1 s2 (Lockstep s1 s2) (writeReg i v t1) (writeReg i v t2) := by
  unfold Machine.writeReg
  rw [h.regs, h.cfg]
  split
  · exact .ok (h.withRegs _)
  · exact .stuck _

theorem Lockstep.memRead (a : Nat) : ResAlike s1 s2 Eq (memRead a t1) (memRead a t2) := by
  unfold Machine.memRead
  rw [h.msize, h.mem]
  split
  · exact .raise _ _ h
  · exact .ok rfl

theorem Lockstep.memWrite (a : Nat) (v : Word) :
    ResAlike s1 s2 (Lockstep s1 s2) (memWrite a v t1) (memWrite a v t2) := by
  unfold Machine.memWrite
  rw [h.msize, h.mem, h.cfg]
  split
  · exact .raise _ _ h
  · exact .ok (h.withMem _)

theorem Lockstep.push (v : Word) : ResAlike s1 s2 (Lockstep s1 s2) (push v t1) (push v t2) := by
  unfold Machine.push
  refine (h.readReg _).bind ?_
  rintro sp _ rfl
  rw [h.hsb]
  split
  · exact .raise _ _ h
  · refine (h.writeReg _ _).bind fun u1 u2 hu => (hu.readReg _).bind ?_
    rintro sp' _ rfl
    exact hu.memWrite _ _

/-- The popped words agree, and the machines stay in lockstep. -/
theorem Lockstep.pop :
    ResAlike s1 s2 (fun a b => b.1 = a.1 ∧ Lockstep s1 s2 a.2 b.2) (pop t1) (pop t2) := by
  unfold Machine.pop
  refine (h.readReg _).bind ?_
  rintro sp _ rfl
  rw [h.msize]
  split
  · exact .raise _ _ h
  · refine (h.memRead _).bind ?_
    rintro v _ rfl
    exact (h.writeReg _ _).bind fun u1 u2 hu => .ok ⟨rfl, hu⟩

/-- A bound device sees the port and the draw counter, on which the two agree (R303). -/
theorem Lockstep.portIn (port : Word) :
    (portIn port t2).1 = (portIn port t1).1 ∧ Lockstep s1 s2 (portIn port t1).2 (portIn port t2).2 := by
  unfold Machine.portIn
  rw [h.registry, h.oracle]
  cases boundDevice t1.registry.inMap port with
  | none => exact ⟨rfl, h.report _⟩
  | some d =>
    cases t1.oracle.script with
    | cons answer rest => exact ⟨rfl, h.withOracle _⟩
    | nil => exact ⟨rfl, h.withOracle _⟩

theorem Lockstep.portOut (port value : Word) :
    Lockstep s1 s2 (portOut port value t1) (portOut port value t2) := by
  unfold Machine.portOut
  rw [h.registry]
  cases boundDevice t1.registry.outMap port with
  | none => exact h.report _
  | some d => exact h.emit _

/-! Operands and the two passes. -/

theorem Lockstep.resolve (o : Operand) : ResAlike s1 s2 Eq (resolve o t1) (resolve o t2) := by
  unfold Machine.resolve
  cases o.kind with
  | imm => exact .ok rfl
  | reg => exact h.readReg _
  | unknown2 => exact .raise _ _ h
  | unknown3 => exact .raise _ _ h

theorem Lockstep.writeTarget (o : Operand) (v : Int) :
    ResAlike s1 s2 (Lockstep s1 s2) (writeTarget o v t1) (writeTarget o v t2) := by
  unfold Machine.writeTarget
  cases o.kind with
  | imm => exact .ok h
  | reg => exact h.writeReg _ _
  | unknown2 => exact .raise _ _ h
  | unknown3 => exact .raise _ _ h

theorem Lockstep.inputPass (ops : List (Role × Operand)) (j off : Nat) (o : Slots) :
    ResAlike s1 s2 Eq (inputPass t1 j off o ops) (inputPass t2 j off o ops) := by
  induction ops generalizing j off o with
  | nil => exact .ok rfl
  | cons e rest ih =>
    obtain ⟨r, x⟩ := e
    cases r with
    | set => exact ih _ _ _
    | setRam => exact ih _ _ _
    | get => exact (h.resolve x).bind fun v _ hv => hv ▸ ih _ _ _
    | ramOffset => exact (h.resolve x).bind fun v _ hv => hv ▸ ih _ _ _
    | getRam =>
      exact (h.resolve x).bind fun v _ hv => hv ▸ (h.memRead _).bind fun u _ hu => hu ▸ ih _ _ _

end Updates

theorem Lockstep.writebackPass (h : Lockstep s1 s2 t1 t2) (ops : List (Role × Operand)) (j off : Nat)
    (o : Slots) :
    ResAlike s1 s2 (Lockstep s1 s2) (writebackPass j off o ops t1) (writebackPass j off o ops t2) := by
  induction ops generalizing j t1 t2 with
  | nil => exact .ok h
  | cons e rest ih =>
    obtain ⟨r, x⟩ := e
    cases r with
    | get => exact ih h _
    | getRam => exact ih h _
    | ramOffset => exact ih h _
    | set => exact (h.writeTarget x _).bind fun u1 u2 hu => ih hu _
    | setRam =>
      exact (h.resolve x).bind fun v _ hv => hv ▸ (h.memWrite _ _).bind fun u1 u2 hu => ih hu _

/-! The execution functions. -/

theorem Lockstep.jumpTo (h : Lockstep s1 s2 t1 t2) (v : Word) (o : Slots) :
    ResAlike s1 s2 (FnAlike s1 s2) (jumpTo v o t1) (jumpTo v o t2) :=
  (h.writeReg _ _).bind fun _ _ hu => .ok (.complete o hu)

/-- Every execution function answers alike on machines in lockstep: it reads the slots, the configuration and
what the operations above read. -/
theorem Behaves.alike {i : Instr} {roles : List Role} {fn : Fn} (hb : Behaves i roles fn)
    (h : Lockstep s1 s2 t1 t2) (o : Slots) : ResAlike s1 s2 (FnAlike s1 s2) (fn o t1) (fn o t2) := by
  cases hb with
  | computes _ hf =>
    obtain ⟨g, hg⟩ := hf
    rw [hg, hg, h.cfg]
    exact .ok (.complete _ h)
  | divides f _ =>
    unfold fnDivide
    rw [h.cfg]
    split
    · exact .raise _ _ h
    · exact .ok (.complete _ h)
  | branches _ hf =>
    obtain ⟨taken, hg⟩ := hf
    rw [hg, hg, h.cfg]
    split
    · exact h.jumpTo _ _
    · exact .ok (.complete _ h)
  | pushes a => exact (h.push _).bind fun _ _ hu => .ok (.complete _ hu)
  | calls a =>
    exact (h.readReg _).bind fun ret _ hret => hret ▸ (h.push _).bind fun _ _ hu => hu.jumpTo _ _
  | pops a =>
    refine h.pop.bind fun a b ⟨hv, hu⟩ => ?_
    rw [hv]
    exact .ok (.complete _ hu)
  | returns =>
    refine h.pop.bind fun a b ⟨hv, hu⟩ => ?_
    rw [hv]
    exact hu.jumpTo _ _
  | inputs a b =>
    obtain ⟨answer, hu⟩ := h.portIn o.b
    unfold fnIn
    generalize portIn o.b t1 = r1 at answer hu
    generalize portIn o.b t2 = r2 at answer hu
    obtain ⟨answer1, u1⟩ := r1
    obtain ⟨answer2, u2⟩ := r2
    obtain rfl : answer2 = answer1 := answer
    cases answer2 with
    | value v =>
      change ResAlike _ _ _ (.ok (FnResult.complete _ u1))
        (.ok (FnResult.complete { o with a := trunc u2.cfg.w v } u2))
      rw [hu.cfg]
      exact .ok (.complete _ hu)
    | pending => exact .ok (.incomplete hu)
    | unbound => exact .ok (.complete o hu)
  | outputs a b => exact .ok (.complete o (h.portOut _ _))

/-! The step. -/

theorem Lockstep.afterFn (cur : Word) (off : Nat) (ops : List (Role × Operand)) {r1 r2 : FnResult}
    (h : FnAlike s1 s2 r1 r2) :
    ResAlike s1 s2 (Lockstep s1 s2) (afterFn cur off ops r1) (afterFn cur off ops r2) := by
  cases h with
  | incomplete h => exact .ok (h.suspend _ _)
  | complete o h => exact (h.writebackPass ops 0 off o).bind fun _ _ hu => .ok (hu.withStatus _)

/-- Where one machine's step answers a next state, so does the other's, in lockstep. -/
def FollowsInLockstep (s1 s2 : State) (out1 out2 : Outcome) : Prop :=
  ∀ t1, out1 = .next t1 → ∃ t2, out2 = .next t2 ∧ Lockstep s1 s2 t1 t2

theorem ResAlike.finish {r1 r2 : Res State} (h : ResAlike s1 s2 (Lockstep s1 s2) r1 r2) (cur : Word) :
    FollowsInLockstep s1 s2 (finish cur r1) (finish cur r2) := by
  cases h with
  | ok h => rintro _ ⟨⟩; exact ⟨_, rfl, h⟩
  | raise c i h => rintro _ ⟨⟩; exact ⟨_, rfl, h.raiseFault c cur i⟩
  | stuck f => exact fun _ => nofun

theorem Lockstep.withCur (h : Lockstep s1 s2 t1 t2) {body : Word → State → Res State}
    (hb : ∀ cur u1 u2, Lockstep s1 s2 u1 u2 →
      ResAlike s1 s2 (Lockstep s1 s2) (body cur u1) (body cur u2)) :
    FollowsInLockstep s1 s2 (withCur t1 body) (withCur t2 body) := by
  unfold Machine.withCur
  rw [h.regs]
  cases t1.regs[pcIndex]? with
  | none => exact fun _ => nofun
  | some cur => exact ((h.writeReg _ _).bind (hb cur)).finish cur

theorem Lockstep.haltStep (h : Lockstep s1 s2 t1 t2) :
    FollowsInLockstep s1 s2 (haltStep t1) (haltStep t2) :=
  h.withCur fun _ _ _ hu => .ok (hu.withStatus _)

theorem Lockstep.exec (h : Lockstep s1 s2 t1 t2) (i : Instr) :
    FollowsInLockstep s1 s2 (exec i t1) (exec i t2) := by
  by_cases hlt : i = .hlt
  · subst hlt
    exact h.haltStep
  · obtain ⟨roles, fn, -, hexec, hb⟩ := exec_behaves i hlt
    rw [hexec, hexec]
    refine h.withCur fun cur u1 u2 hu => (hu.inputPass _ _ _ _).bind ?_
    rintro r _ rfl
    exact (hb.alike hu r.1).bind fun _ _ hr => Lockstep.afterFn cur r.2 _ hr

theorem Lockstep.fetch (h : Lockstep s1 s2 t1 t2) : fetch t2 = fetch t1 := by
  rw [Machine.fetch, h.regs, h.cfg, h.prog, Machine.fetch]

theorem Lockstep.step (h : Lockstep s1 s2 t1 t2) : FollowsInLockstep s1 s2 (step t1) (step t2) := by
  have guard : t2.steppable = t1.steppable := by rw [State.steppable, h.status, State.steppable]
  unfold Machine.step
  rw [guard, h.fetch]
  split
  · cases Machine.fetch t1 with
    | pastEnd => exact h.haltStep
    | instr i => exact h.exec i
    | unknown => exact h.withCur fun _ _ _ hu => .raise _ _ hu
    | malformed => exact fun _ => nofun
    | stuck f => exact fun _ => nofun
  · exact fun _ => nofun

/-- Settles O60: the two machines are in lockstep before the step, and the step keeps it. -/
theorem hostRegistersNotObservable : Obligations.HostRegistersNotObservable := by
  intro s1 s2 t1 cfg status regs mem prog registry oracle hstep
  have start : Lockstep s1 s2 s1 s2 :=
    ⟨cfg.symm, status.symm, regs.symm, mem.symm, prog.symm, registry.symm, oracle.symm,
      ⟨rfl, rfl, rfl, rfl⟩, ⟨[], by simp⟩, ⟨[], by simp⟩⟩
  obtain ⟨t2, hstep2, h⟩ := start.step t1 hstep
  exact ⟨t2, hstep2, h.status, h.regs, h.mem, h.oracle, h.output, h.diagnostics⟩

/-- A machine is in lockstep with itself. -/
theorem Lockstep.self (s : State) : Lockstep s s s s :=
  ⟨rfl, rfl, rfl, rfl, rfl, rfl, rfl, ⟨rfl, rfl, rfl, rfl⟩, ⟨[], by simp⟩, ⟨[], by simp⟩⟩

/-- Settles O59: a machine in lockstep with itself keeps its setup. -/
theorem stepKeepsSetup : Obligations.StepKeepsSetup := by
  intro s t h
  obtain ⟨_, -, same⟩ := (Lockstep.self s).step t h
  exact same.setup

end Sys2Proof.Machine
end

section
/-! PROOFS. How each role of an operand list reads and writes, and how the dispatcher's step ends once its
parts are known (R125 to R131). -/

namespace Sys2Proof.Machine

variable {s t u : State} {x : Operand} {ops rest : List (Role × Operand)} {o o' : Slots}

/-! Pass 1. -/

theorem inputPass_get (j off : Nat) (h : s.canUse x) :
    inputPass s j off o ((.get, x) :: rest) = inputPass s (j + 1) off (o.put j (s.value x)) rest := by
  rw [inputPass, resolve_ok s x h, Res.bind_ok]

theorem inputPass_ramOffset (j off : Nat) (h : s.canUse x) :
    inputPass s j off o ((.ramOffset, x) :: rest) =
      inputPass s (j + 1) (s.value x).toNat (o.put j (s.value x)) rest := by
  rw [inputPass, resolve_ok s x h, Res.bind_ok]

theorem inputPass_getRam (j off : Nat) (h : s.canUse x) (below : (s.value x).toNat + off < s.msize) :
    inputPass s j off o ((.getRam, x) :: rest) =
      inputPass s (j + 1) off (o.put j (s.wordAt ((s.value x).toNat + off))) rest := by
  rw [inputPass, resolve_ok s x h, Res.bind_ok, memRead_ok s _ below, Res.bind_ok]

theorem inputPass_getRam_past (j off : Nat) (h : s.canUse x)
    (past : s.msize ≤ (s.value x).toNat + off) :
    inputPass s j off o ((.getRam, x) :: rest) =
      .raise .loadOutOfBounds ((s.value x).toNat + off) s := by
  rw [inputPass, resolve_ok s x h, Res.bind_ok, memRead_raise s _ past, Res.bind_raise]

theorem inputPass_set (j off : Nat) :
    inputPass s j off o ((.set, x) :: rest) = inputPass s (j + 1) off (o.put j 0) rest := rfl

theorem inputPass_setRam (j off : Nat) :
    inputPass s j off o ((.setRam, x) :: rest) = inputPass s (j + 1) off (o.put j 0) rest := rfl

theorem inputPass_nil (j off : Nat) : inputPass s j off o [] = .ok (o, off) := rfl

/-! Pass 2. -/

/-- Input operands are not written. -/
theorem writebackPass_inputs (j off : Nat) (inputs : ∀ e ∈ ops, inputRole e.1 = true) :
    writebackPass j off o ops s = .ok s := by
  induction ops generalizing j with
  | nil => rfl
  | cons e rest ih =>
    obtain ⟨r, x⟩ := e
    obtain ⟨input, tail⟩ := List.forall_mem_cons.mp inputs
    cases r with
    | get | getRam | ramOffset => exact ih (j + 1) tail
    | set | setRam => cases input

variable (inputs : ∀ e ∈ rest, inputRole e.1 = true)
include inputs

theorem writebackPass_set (off : Nat) :
    writebackPass 0 off o ((.set, x) :: rest) s = writeTarget x o.a.toNat s := by
  change (writeTarget x o.a.toNat s).bind (writebackPass 1 off o rest) = _
  cases writeTarget x o.a.toNat s with
  | ok t => exact writebackPass_inputs 1 off inputs
  | raise c i t => rfl
  | stuck f => rfl

theorem writebackPass_setRam (off : Nat) :
    writebackPass 0 off o ((.setRam, x) :: rest) s =
      (resolve x s).bind fun v => memWrite (v.toNat + off) o.a s := by
  change ((resolve x s).bind fun v => (memWrite (v.toNat + off) o.a s).bind (writebackPass 1 off o rest)) = _
  cases resolve x s with
  | ok v =>
    rw [Res.bind_ok, Res.bind_ok]
    cases memWrite (v.toNat + off) o.a s with
    | ok t => exact writebackPass_inputs 1 off inputs
    | raise c i t => rfl
    | stuck f => rfl
  | raise c i t => rfl
  | stuck f => rfl

omit inputs

/-! The whole step. -/

variable {fn : Fn} {off : Nat} {c : FaultCode} {i : Nat} (hres : s.hasReserved)
include hres

theorem runInstr_input_raises
    (hin : inputPass s.advanced 0 0 Slots.zero ops = .raise c i s.advanced) :
    runInstr ops fn s = .next (s.faultedAs c i s.advanced) := by
  rw [runInstr_eq s ops fn hres, hin]; rfl

variable (hin : inputPass s.advanced 0 0 Slots.zero ops = .ok (o, off))
include hin

theorem runInstr_fn_raises (hf : fn o s.advanced = .raise c i t) :
    runInstr ops fn s = .next (s.faultedAs c i t) := by
  rw [runInstr_eq s ops fn hres, hin, Res.bind_ok, hf]; rfl

theorem runInstr_suspends (hf : fn o s.advanced = .ok (.incomplete t)) :
    runInstr ops fn s = .next (suspend s.pc (suspendTarget ops) t) := by
  rw [runInstr_eq s ops fn hres, hin, Res.bind_ok, hf]; rfl

variable (hf : fn o s.advanced = .ok (.complete o' t))
include hf

theorem runInstr_writes (hw : writebackPass 0 off o' ops t = .ok u) :
    runInstr ops fn s = .next u.completed := by
  rw [runInstr_eq s ops fn hres, hin, Res.bind_ok, hf, Res.bind_ok, afterFn, hw]; rfl

theorem runInstr_write_raises (hw : writebackPass 0 off o' ops t = .raise c i u) :
    runInstr ops fn s = .next (s.faultedAs c i u) := by
  rw [runInstr_eq s ops fn hres, hin, Res.bind_ok, hf, Res.bind_ok, afterFn, hw]; rfl

end Sys2Proof.Machine
end

section
/-! PROOFS. What pass 1 reads for each role list of the table, on usable inputs (R127, R128). -/

namespace Sys2Proof.Machine

variable {s : State} {a b c : Operand}

theorem inputPass_set_get (hb : s.canUse b) :
    inputPass s.advanced 0 0 Slots.zero [(.set, a), (.get, b)] = .ok (⟨0, s.advanced.value b, 0⟩, 0) := by
  rw [inputPass_set, inputPass_get _ _ ((s.canUse_advanced b).mpr hb), inputPass_nil]; rfl

theorem inputPass_set_get_get (hb : s.canUse b) (hc : s.canUse c) :
    inputPass s.advanced 0 0 Slots.zero [(.set, a), (.get, b), (.get, c)] =
      .ok (⟨0, s.advanced.value b, s.advanced.value c⟩, 0) := by
  rw [inputPass_set, inputPass_get _ _ ((s.canUse_advanced b).mpr hb),
    inputPass_get _ _ ((s.canUse_advanced c).mpr hc), inputPass_nil]; rfl

theorem inputPass_setRam_get (hb : s.canUse b) :
    inputPass s.advanced 0 0 Slots.zero [(.setRam, a), (.get, b)] =
      .ok (⟨0, s.advanced.value b, 0⟩, 0) := by
  rw [inputPass_setRam, inputPass_get _ _ ((s.canUse_advanced b).mpr hb), inputPass_nil]; rfl

/-- The offset latched by operand 1 is the word that pass 2 adds to the address (R128). -/
theorem inputPass_setRam_offset_get (hb : s.canUse b) (hc : s.canUse c) :
    inputPass s.advanced 0 0 Slots.zero [(.setRam, a), (.ramOffset, b), (.get, c)] =
      .ok (⟨0, s.advanced.value b, s.advanced.value c⟩, (s.advanced.value b).toNat) := by
  rw [inputPass_setRam, inputPass_ramOffset _ _ ((s.canUse_advanced b).mpr hb),
    inputPass_get _ _ ((s.canUse_advanced c).mpr hc), inputPass_nil]; rfl

/-- Operand 1 read from memory, whichever way operand 0 is written. -/
theorem inputPass_out_getRam {r : Role} (hr : r = .set ∨ r = .setRam) (hb : s.canUse b)
    (below : (s.advanced.value b).toNat < s.msize) :
    inputPass s.advanced 0 0 Slots.zero [(r, a), (.getRam, b)] =
      .ok (⟨0, s.wordAt (s.advanced.value b).toNat, 0⟩, 0) := by
  rcases hr with rfl | rfl
  · rw [inputPass_set, inputPass_getRam _ _ ((s.canUse_advanced b).mpr hb) below, inputPass_nil]; rfl
  · rw [inputPass_setRam, inputPass_getRam _ _ ((s.canUse_advanced b).mpr hb) below, inputPass_nil]; rfl

theorem inputPass_out_getRam_past {r : Role} (hr : r = .set ∨ r = .setRam) (hb : s.canUse b)
    (past : s.msize ≤ (s.advanced.value b).toNat) :
    inputPass s.advanced 0 0 Slots.zero [(r, a), (.getRam, b)] =
      .raise .loadOutOfBounds (s.advanced.value b).toNat s.advanced := by
  rcases hr with rfl | rfl
  · exact inputPass_getRam_past _ _ ((s.canUse_advanced b).mpr hb) past
  · exact inputPass_getRam_past _ _ ((s.canUse_advanced b).mpr hb) past

theorem inputPass_set_offset_getRam (hb : s.canUse b) (hc : s.canUse c)
    (below : (s.advanced.value c).toNat + (s.advanced.value b).toNat < s.msize) :
    inputPass s.advanced 0 0 Slots.zero [(.set, a), (.ramOffset, b), (.getRam, c)] =
      .ok (⟨0, s.advanced.value b,
        s.wordAt ((s.advanced.value c).toNat + (s.advanced.value b).toNat)⟩,
        (s.advanced.value b).toNat) := by
  rw [inputPass_set, inputPass_ramOffset _ _ ((s.canUse_advanced b).mpr hb),
    inputPass_getRam _ _ ((s.canUse_advanced c).mpr hc) below, inputPass_nil]; rfl

theorem inputPass_set_offset_getRam_past (hb : s.canUse b) (hc : s.canUse c)
    (past : s.msize ≤ (s.advanced.value c).toNat + (s.advanced.value b).toNat) :
    inputPass s.advanced 0 0 Slots.zero [(.set, a), (.ramOffset, b), (.getRam, c)] =
      .raise .loadOutOfBounds ((s.advanced.value c).toNat + (s.advanced.value b).toNat) s.advanced := by
  rw [inputPass_set, inputPass_ramOffset _ _ ((s.canUse_advanced b).mpr hb),
    inputPass_getRam_past _ _ ((s.canUse_advanced c).mpr hc) past]

end Sys2Proof.Machine
end

section
/-! PROOFS. The readings of a word (R7, R10) and the ALU's results (42_alu.md). -/

namespace Sys2Proof.Machine

/-! Words. -/

theorem Width.bits_pos {w : Width} (h : w ≠ .unset) : 0 < w.bits := by
  cases w <;> simp_all [Width.bits]

variable {cfg : Cfg}

/-- The words below SIGN are half of all words (R7). -/
theorem Cfg.Coherent.two_pow_bits (h : cfg.Coherent) : 2 ^ cfg.w.bits = 2 * cfg.sign.toNat := by
  rw [h.signBit, ← Nat.pow_succ', Nat.succ_eq_add_one, Nat.sub_add_cancel (Width.bits_pos h.width)]

theorem signed_of_le {v : Word} (h : cfg.sign.toNat ≤ v.toNat) :
    signed cfg v = (v.toNat : Int) - 2 ^ cfg.w.bits := if_pos h

theorem signed_of_lt {v : Word} (h : v.toNat < cfg.sign.toNat) : signed cfg v = v.toNat :=
  if_neg (Nat.not_le.mpr h)

theorem signed_range (h : cfg.Coherent) {v : Word} (hv : v.toNat < 2 ^ cfg.w.bits) :
    -(cfg.sign.toNat : Int) ≤ signed cfg v ∧ signed cfg v ≤ cfg.smax.toNat := by
  have half := h.two_pow_bits
  have max : cfg.smax.toNat = cfg.sign.toNat - 1 := by rw [h.maxSigned, h.signBit]
  rcases Nat.lt_or_ge v.toNat cfg.sign.toNat with low | high
  · rw [signed_of_lt low]; omega
  · have cast : (2 : Int) ^ cfg.w.bits = ((2 * cfg.sign.toNat : Nat) : Int) := by
      rw [← half]; push_cast; rfl
    rw [signed_of_le high, cast]; omega

theorem trunc_sub_two_pow (w : Width) (v : Int) : trunc w (v - 2 ^ w.bits) = trunc w v :=
  trunc_congr w _ _ (Int.sub_emod_right v _)

theorem trunc_signed {v : Word} (hv : v.toNat < 2 ^ cfg.w.bits) : trunc cfg.w (signed cfg v) = v := by
  rcases Nat.lt_or_ge v.toNat cfg.sign.toNat with low | high
  · rw [signed_of_lt low, trunc_word _ _ hv]
  · rw [signed_of_le high, trunc_sub_two_pow, trunc_word _ _ hv]

/-- Settles O6: truncation is the remainder, and subtracting 2^W changes the sign but not the residue. -/
theorem wordReadings : Obligations.WordReadings := by
  refine ⟨trunc_toNat, fun cfg v coherent hv => ?_⟩
  obtain ⟨low, high⟩ := signed_range coherent hv
  exact ⟨low, high, trunc_signed hv⟩

theorem trunc_complement_toNat (h : cfg.Coherent) {v : Word} (hv : v.toNat < 2 ^ cfg.w.bits) :
    (trunc cfg.w ((cfg.m.toNat : Int) - v.toNat)).toNat = 2 ^ cfg.w.bits - (v.toNat + 1) := by
  have value : (cfg.m.toNat : Int) - v.toNat = ((2 ^ cfg.w.bits - (v.toNat + 1) : Nat) : Int) := by
    rw [h.maxValue]; omega
  have small : ((2 ^ cfg.w.bits - (v.toNat + 1) : Nat) : Int) < 2 ^ cfg.w.bits := by
    have : 2 ^ cfg.w.bits - (v.toNat + 1) < 2 ^ cfg.w.bits := by omega
    exact_mod_cast this
  have reduced := trunc_toNat cfg.w ((2 ^ cfg.w.bits - (v.toNat + 1) : Nat) : Int)
  rw [Int.emod_eq_of_lt (Int.natCast_nonneg _) small] at reduced
  rw [value]
  exact_mod_cast reduced

/-- Settles O7: 2^W − 1 − v has the complemented bits of v below W and none above. -/
theorem complementStaysWithinWidth : Obligations.ComplementStaysWithinWidth := by
  intro cfg v coherent hv i
  rw [BitVec.getLsbD, trunc_complement_toNat coherent hv, Nat.testBit_two_pow_sub_succ hv]
  rfl

/-! The result of an ALU instruction, for each shape of role list (R180). -/

section Shapes

variable {mk1 : Operand → Operand → Instr} {mk2 : Operand → Operand → Operand → Instr}

/-- A target stores the residue of a value and nothing else of it (R30). -/
theorem State.assigned_congr (s : State) (o : Operand) {u v : Int}
    (h : trunc s.cfg.w u = trunc s.cfg.w v) : s.assigned o u = s.assigned o v := by
  rw [← State.assigned_trunc s o u, h, State.assigned_trunc]

theorem computesUnary_of_exec {f : Cfg → Word → Int}
    (h : ∀ a b s, exec (mk1 a b) s = runInstr [(.set, a), (.get, b)] (fnUnary f) s) :
    ComputesUnary mk1 f := by
  intro s a b hres ha hb
  rw [h, runInstr_set_get a b (fnUnary f) _ _ hres ((s.canUse_advanced a).mpr ha) hb rfl,
    State.assigned_trunc]
  rfl

theorem computesBinary_of_exec {f : Cfg → Word → Word → Int}
    (h : ∀ a b c s,
      exec (mk2 a b c) s = runInstr [(.set, a), (.get, b), (.get, c)] (fnBinary f) s) :
    ComputesBinary mk2 f := by
  intro s a b c hres ha hb hc
  rw [h, runInstr_set_get_get a b c (fnBinary f) _ _ hres ((s.canUse_advanced a).mpr ha) hb hc rfl,
    State.assigned_trunc]
  rfl

/-- On words of a coherent machine a result may be given by any formula of the same residue. -/
theorem ComputesBinary.onWords {f g : Cfg → Word → Word → Int} (h : ComputesBinary mk2 f)
    (same : ∀ cfg (b c : Word), cfg.Coherent → b.toNat < 2 ^ cfg.w.bits →
      trunc cfg.w (f cfg b c) = trunc cfg.w (g cfg b c)) : ComputesBinaryOnWords mk2 g := by
  intro s a b c hres ha hb hc coherent word
  rw [h s a b c hres ha hb hc, State.assigned_congr s.advanced a (same s.cfg _ _ coherent word)]

theorem divides_of_exec {f : Cfg → Word → Word → Int}
    (h : ∀ a b c s,
      exec (mk2 a b c) s = runInstr [(.set, a), (.get, b), (.get, c)] (fnDivide f) s) :
    Divides mk2 f := by
  intro s a b c hres hb hc
  rw [h]
  constructor
  · intro nonzero ha
    rw [runInstr_set_get_get a b c (fnDivide f) _ _ hres ((s.canUse_advanced a).mpr ha) hb hc
      (if_neg nonzero), State.assigned_trunc]
    rfl
  · intro zero
    exact runInstr_fn_raises hres (inputPass_set_get_get hb hc) (if_pos zero)

theorem setsIf_of_exec {f : Cfg → Word → Word → Bool} {cond : Cfg → Word → Word → Prop}
    (h : ∀ a b c s,
      exec (mk2 a b c) s = runInstr [(.set, a), (.get, b), (.get, c)] (fnSetIf f) s)
    (hcond : ∀ cfg b c, f cfg b c = true ↔ cond cfg b c) : SetsIf mk2 cond := by
  intro s a b c hres ha hb hc
  rw [← hcond, h, runInstr_set_get_get a b c (fnSetIf f) _ _ hres ((s.canUse_advanced a).mpr ha) hb hc rfl]
  constructor
  · intro holds
    rw [State.advanced_cfg, if_pos holds]
  · intro fails
    rw [State.advanced_cfg, if_neg fails]
    rfl

theorem branchesBinary_of_exec {f : Cfg → Word → Word → Bool} {cond : Cfg → Word → Word → Prop}
    (h : ∀ a b c s,
      exec (mk2 a b c) s = runInstr [(.get, a), (.get, b), (.get, c)] (fnBranchBinary f) s)
    (hcond : ∀ cfg b c, f cfg b c = true ↔ cond cfg b c) : BranchesBinary mk2 cond := by
  intro s a b c hres ha hb hc
  rw [← hcond, h]
  constructor
  · intro taken
    exact runInstr_get_get_get a b c _ _ _ hres ha hb hc
      ((if_pos taken).trans (jumpTo_ok _ (State.hasReserved_advanced hres) _ _))
  · intro skipped
    exact runInstr_get_get_get a b c _ _ _ hres ha hb hc (if_neg skipped)

theorem branchesUnary_of_exec {f : Cfg → Word → Bool} {cond : Cfg → Word → Prop}
    (h : ∀ a b s, exec (mk1 a b) s = runInstr [(.get, a), (.get, b)] (fnBranchUnary f) s)
    (hcond : ∀ cfg b, f cfg b = true ↔ cond cfg b) : BranchesUnary mk1 cond := by
  intro s a b hres ha hb
  rw [← hcond, h]
  constructor
  · intro taken
    exact runInstr_get_get a b _ _ _ hres ha hb
      ((if_pos taken).trans (jumpTo_ok _ (State.hasReserved_advanced hres) _ _))
  · intro skipped
    exact runInstr_get_get a b _ _ _ hres ha hb (if_neg skipped)

end Shapes

/-! The ALU instructions (R160, R161, R182 to R216). -/

theorem computesUnary_of_copy {mk : Operand → Operand → Instr}
    (h : ∀ a b s, exec (mk a b) s = runInstr [(.set, a), (.get, b)] fnCopyB s) :
    ComputesUnary mk fun _ b => b.toNat := by
  intro s a b hres ha hb
  rw [h, runInstr_set_get a b fnCopyB _ _ hres ((s.canUse_advanced a).mpr ha) hb rfl]

/-- Settles O14: both are the copy of operand 1. -/
theorem moveResults : Obligations.MoveResults :=
  ⟨computesUnary_of_copy fun _ _ _ => rfl, computesUnary_of_copy fun _ _ _ => rfl⟩

theorem aluAbs_eq : aluAbs = fun cfg b => |signed cfg b| := by
  funext cfg b
  exact Int.natCast_natAbs _

/-- Settles O20: each formula is the model's own but for ABS, whose absolute value is a natural number
there. -/
theorem arithmeticResults : Obligations.ArithmeticResults := by
  refine ⟨computesBinary_of_exec (f := aluAdd) fun _ _ _ _ => rfl,
    computesBinary_of_exec (f := aluSub) fun _ _ _ _ => rfl,
    computesUnary_of_exec (f := aluInc) fun _ _ _ => rfl,
    computesUnary_of_exec (f := aluDec) fun _ _ _ => rfl,
    computesUnary_of_exec (f := aluNeg) fun _ _ _ => rfl,
    computesBinary_of_exec (f := aluMlt) fun _ _ _ _ => rfl, ?_⟩
  rw [← aluAbs_eq]
  exact computesUnary_of_exec fun _ _ _ => rfl

theorem aluDiv_eq : aluDiv = fun _ b c => (b.toNat : Int) / c.toNat := by
  funext _ b c
  exact Int.natCast_ediv _ _

theorem aluMod_eq : aluMod = fun _ b c => (b.toNat : Int) - c.toNat * ((b.toNat : Int) / c.toNat) := by
  funext _ b c
  rw [aluMod, Int.natCast_ediv]

/-- Settles O21: the natural quotient of two words is their integer quotient. -/
theorem divisionResults : Obligations.DivisionResults := by
  refine ⟨?div, ?mod, divides_of_exec (f := aluSdiv) fun _ _ _ _ => rfl⟩
  case div => rw [← aluDiv_eq]; exact divides_of_exec fun _ _ _ _ => rfl
  case mod => rw [← aluMod_eq]; exact divides_of_exec fun _ _ _ _ => rfl

/-- Settles O22: each formula is the model's own. -/
theorem bitwiseResults : Obligations.BitwiseResults :=
  ⟨computesBinary_of_exec (f := aluAnd) fun _ _ _ _ => rfl,
    computesBinary_of_exec (f := aluOr) fun _ _ _ _ => rfl,
    computesBinary_of_exec (f := aluXor) fun _ _ _ _ => rfl,
    computesBinary_of_exec (f := aluNor) fun _ _ _ _ => rfl,
    computesBinary_of_exec (f := aluNand) fun _ _ _ _ => rfl,
    computesBinary_of_exec (f := aluXnor) fun _ _ _ _ => rfl,
    computesUnary_of_exec (f := aluNot) fun _ _ _ => rfl⟩

/-! Shifts (R199 to R204, D23). -/

section Shifts

variable (cfg) (b c : Word)

/-- A count of W or more shifts every bit of a product past the width. -/
theorem trunc_aluBsl : trunc cfg.w (aluBsl cfg b c) = trunc cfg.w ((b.toNat : Int) * 2 ^ c.toNat) := by
  unfold aluBsl
  split
  case isFalse => rfl
  case isTrue long =>
    refine trunc_congr _ _ _ ?_
    rw [Int.zero_emod, Int.emod_eq_zero_of_dvd (Dvd.dvd.mul_left (pow_dvd_pow 2 long) _)]

variable {b c}

theorem aluBsr_eq (hb : b.toNat < 2 ^ cfg.w.bits) : aluBsr cfg b c = (b.toNat : Int) / 2 ^ c.toNat := by
  unfold aluBsr
  split
  case isFalse => push_cast; rfl
  case isTrue long =>
    have small : b.toNat < 2 ^ c.toNat := hb.trans_le (Nat.pow_le_pow_right (by decide) long)
    have quotient : b.toNat / 2 ^ c.toNat = 0 := Nat.div_eq_of_lt small
    exact_mod_cast quotient.symm

/-- Rounding toward minus infinity, a quotient of absolute value below 1 is −1 or 0 by its sign. -/
theorem floor_div_of_small {x p : Int} (low : -p ≤ x) (high : x < p) : x / p = if x < 0 then -1 else 0 := by
  split
  case isTrue negative =>
    exact (Int.ediv_emod_unique (r := x + p) (by omega)).mpr ⟨by omega, by omega, by omega⟩ |>.1
  case isFalse nonneg => exact Int.ediv_eq_zero_of_lt (by omega) high

theorem signed_neg_iff (hb : b.toNat < 2 ^ cfg.w.bits) :
    signed cfg b < 0 ↔ cfg.sign.toNat ≤ b.toNat := by
  have word : (b.toNat : Int) < 2 ^ cfg.w.bits := by exact_mod_cast hb
  rcases Nat.lt_or_ge b.toNat cfg.sign.toNat with low | high
  · rw [signed_of_lt low]; omega
  · rw [signed_of_le high]; omega

theorem aluBss_eq (coherent : cfg.Coherent) (hb : b.toNat < 2 ^ cfg.w.bits) :
    aluBss cfg b c = signed cfg b / 2 ^ c.toNat := by
  unfold aluBss
  split
  case isFalse => rfl
  case isTrue long =>
    obtain ⟨low, high⟩ := signed_range coherent hb
    have half := coherent.two_pow_bits
    have max : cfg.smax.toNat = cfg.sign.toNat - 1 := by rw [coherent.maxSigned, coherent.signBit]
    have grows : 2 ^ cfg.w.bits ≤ 2 ^ c.toNat := Nat.pow_le_pow_right (by decide) long
    have power : ((2 ^ c.toNat : Nat) : Int) = 2 ^ c.toNat := by push_cast; rfl
    have positive : 0 < 2 ^ cfg.w.bits := Nat.two_pow_pos _
    rw [← power, floor_div_of_small (by omega) (by omega)]
    simp only [signed_neg_iff cfg hb, ge_iff_le]

end Shifts

theorem aluRsh_eq : aluRsh = fun _ b => (b.toNat : Int) / 2 := by
  funext _ b
  exact Int.natCast_ediv _ _

/-- Settles O23: below W the model computes the formula; from W on, the formula's residue is the fill that the
model answers. -/
theorem shiftResults : Obligations.ShiftResults := by
  refine ⟨computesUnary_of_exec (f := aluLsh) fun _ _ _ => rfl, ?rsh, ?bsl, ?bsr,
    computesUnary_of_exec (f := aluSrs) fun _ _ _ => rfl, ?bss⟩
  case rsh => rw [← aluRsh_eq]; exact computesUnary_of_exec fun _ _ _ => rfl
  case bsl =>
    exact (computesBinary_of_exec (f := aluBsl) fun _ _ _ _ => rfl).onWords fun cfg b c _ _ =>
      trunc_aluBsl cfg b c
  case bsr =>
    exact (computesBinary_of_exec (f := aluBsr) fun _ _ _ _ => rfl).onWords fun cfg b c _ word =>
      congrArg _ (aluBsr_eq cfg word)
  case bss =>
    exact (computesBinary_of_exec (f := aluBss) fun _ _ _ _ => rfl).onWords fun cfg b c coherent word =>
      congrArg _ (aluBss_eq cfg coherent word)

/-- M is the residue of −1 (R7). -/
theorem trunc_neg_one (h : cfg.Coherent) : trunc cfg.w (-1) = trunc cfg.w (cfg.m.toNat : Int) := by
  have positive : 0 < 2 ^ cfg.w.bits := Nat.two_pow_pos _
  have value : (cfg.m.toNat : Int) - 2 ^ cfg.w.bits = -1 := by
    rw [h.maxValue]; push_cast [positive]; omega
  rw [← value, trunc_sub_two_pow]

/-- Settles O24: from W on the model answers the fill itself, and −1 is stored as M. -/
theorem longShiftsFill : Obligations.LongShiftsFill := by
  intro s a b c hres ha hb hc coherent word long
  have bsl := computesBinary_of_exec (mk2 := .bsl) (f := aluBsl) (fun _ _ _ _ => rfl) s a b c hres ha hb hc
  have bsr := computesBinary_of_exec (mk2 := .bsr) (f := aluBsr) (fun _ _ _ _ => rfl) s a b c hres ha hb hc
  have bss := computesBinary_of_exec (mk2 := .bss) (f := aluBss) (fun _ _ _ _ => rfl) s a b c hres ha hb hc
  rw [aluBsl, if_pos long] at bsl
  rw [aluBsr, if_pos long] at bsr
  rw [aluBss, if_pos long] at bss
  refine ⟨bsl, bsr, bss.trans ?_⟩
  split
  case isTrue => rw [State.assigned_congr s.advanced a (trunc_neg_one coherent)]; rfl
  case isFalse => rfl

/-- Settles O25: each condition is the model's own. -/
theorem setResults : Obligations.SetResults := by
  refine ⟨setsIf_of_exec (f := condEq) ?_ fun _ _ _ => decide_eq_true_iff,
    setsIf_of_exec (f := condNe) ?_ fun _ _ _ => decide_eq_true_iff,
    setsIf_of_exec (f := condGt) ?_ fun _ _ _ => decide_eq_true_iff,
    setsIf_of_exec (f := condLt) ?_ fun _ _ _ => decide_eq_true_iff,
    setsIf_of_exec (f := condGe) ?_ fun _ _ _ => decide_eq_true_iff,
    setsIf_of_exec (f := condLe) ?_ fun _ _ _ => decide_eq_true_iff,
    setsIf_of_exec (f := carry) ?_ fun _ _ _ => decide_eq_true_iff,
    setsIf_of_exec (f := noCarry) ?_ fun _ _ _ => decide_eq_true_iff,
    setsIf_of_exec (f := condSignedLt) ?_ fun _ _ _ => decide_eq_true_iff,
    setsIf_of_exec (f := condSignedGt) ?_ fun _ _ _ => decide_eq_true_iff,
    setsIf_of_exec (f := condSignedLe) ?_ fun _ _ _ => decide_eq_true_iff,
    setsIf_of_exec (f := condSignedGe) ?_ fun _ _ _ => decide_eq_true_iff⟩
  all_goals exact fun _ _ _ _ => rfl

/-! Jumps and branches (R242 to R260). -/

theorem exec_jmp_eq {s : State} {a : Operand} (hres : s.hasReserved) (ha : s.canUse a) :
    exec (.jmp a) s = .next (s.advanced.setReg 0 (s.advanced.value a).toNat).completed :=
  runInstr_get a fnJump _ _ hres ha (jumpTo_ok _ (State.hasReserved_advanced hres) _ _)

/-- Settles O26: JMP is the jump itself; each branch's condition is the model's own. -/
theorem jumpAndUnsignedBranchResults : Obligations.JumpAndUnsignedBranchResults := by
  refine ⟨fun s a => exec_jmp_eq,
    branchesBinary_of_exec (f := condGe) ?_ fun _ _ _ => decide_eq_true_iff,
    branchesBinary_of_exec (f := condLt) ?_ fun _ _ _ => decide_eq_true_iff,
    branchesBinary_of_exec (f := condGt) ?_ fun _ _ _ => decide_eq_true_iff,
    branchesBinary_of_exec (f := condLe) ?_ fun _ _ _ => decide_eq_true_iff,
    branchesBinary_of_exec (f := condEq) ?_ fun _ _ _ => decide_eq_true_iff,
    branchesBinary_of_exec (f := condNe) ?_ fun _ _ _ => decide_eq_true_iff⟩
  all_goals exact fun _ _ _ _ => rfl

/-- Settles O27: each condition is the model's own. -/
theorem unaryBranchResults : Obligations.UnaryBranchResults := by
  refine ⟨branchesUnary_of_exec (f := condZero) ?_ fun _ _ => decide_eq_true_iff,
    branchesUnary_of_exec (f := condNonzero) ?_ fun _ _ => decide_eq_true_iff,
    branchesUnary_of_exec (f := condNegative) ?_ fun _ _ => decide_eq_true_iff,
    branchesUnary_of_exec (f := condPositive) ?_ fun _ _ => decide_eq_true_iff,
    branchesUnary_of_exec (f := condOdd) ?_ fun _ _ => decide_eq_true_iff,
    branchesUnary_of_exec (f := condEven) ?_ fun _ _ => decide_eq_true_iff⟩
  all_goals exact fun _ _ _ => rfl

/-- Settles O28: each condition is the model's own; b + c is compared with M before any truncation. -/
theorem carryAndSignedBranchResults : Obligations.CarryAndSignedBranchResults := by
  refine ⟨branchesBinary_of_exec (f := carry) ?_ fun _ _ _ => decide_eq_true_iff,
    branchesBinary_of_exec (f := noCarry) ?_ fun _ _ _ => decide_eq_true_iff,
    branchesBinary_of_exec (f := condSignedLt) ?_ fun _ _ _ => decide_eq_true_iff,
    branchesBinary_of_exec (f := condSignedGt) ?_ fun _ _ _ => decide_eq_true_iff,
    branchesBinary_of_exec (f := condSignedLe) ?_ fun _ _ _ => decide_eq_true_iff,
    branchesBinary_of_exec (f := condSignedGe) ?_ fun _ _ _ => decide_eq_true_iff⟩
  all_goals exact fun _ _ _ _ => rfl

end Sys2Proof.Machine
end

section
/-! PROOFS. The loads and stores, in and out of range (41_data_movement.md). -/

namespace Sys2Proof.Machine

variable {s : State} {a b c : Operand} {o : Slots} {off : Nat}

/-! Writing the one output operand in pass 2, for each way it can end (R126, R130). -/

section Writeback

variable {rest : List (Role × Operand)} (inputs : ∀ e ∈ rest, inputRole e.1 = true)
include inputs

theorem writebackPass_set_ok (ha : s.canUse a) :
    writebackPass 0 off o ((.set, a) :: rest) s = .ok (s.assigned a o.a.toNat) := by
  rw [writebackPass_set inputs, writeTarget_ok s a _ ha]

theorem writebackPass_set_badKind (ha : a.badKind) :
    writebackPass 0 off o ((.set, a) :: rest) s = .raise .badOperandKind 0 s := by
  rw [writebackPass_set inputs, writeTarget_badKind s a _ ha]

theorem writebackPass_setRam_ok (ha : s.canUse a) (below : (s.value a).toNat + off < s.msize) :
    writebackPass 0 off o ((.setRam, a) :: rest) s = .ok (s.stored ((s.value a).toNat + off) o.a) := by
  rw [writebackPass_setRam inputs, resolve_ok s a ha, Res.bind_ok, memWrite_ok s _ _ below]

theorem writebackPass_setRam_past (ha : s.canUse a) (past : s.msize ≤ (s.value a).toNat + off) :
    writebackPass 0 off o ((.setRam, a) :: rest) s =
      .raise .storeOutOfBounds ((s.value a).toNat + off) s := by
  rw [writebackPass_setRam inputs, resolve_ok s a ha, Res.bind_ok, memWrite_raise s _ _ past]

theorem writebackPass_setRam_badKind (ha : a.badKind) :
    writebackPass 0 off o ((.setRam, a) :: rest) s = .raise .badOperandKind 0 s := by
  rw [writebackPass_setRam inputs, resolve_badKind s a ha, Res.bind_raise]

end Writeback

theorem inputs_get : ∀ e ∈ [(Role.get, b)], inputRole e.1 = true := by simp [inputRole]
theorem inputs_getRam : ∀ e ∈ [(Role.getRam, b)], inputRole e.1 = true := by simp [inputRole]
theorem inputs_get_get : ∀ e ∈ [(Role.get, b), (Role.get, c)], inputRole e.1 = true := by
  simp [inputRole]
theorem inputs_offset_get : ∀ e ∈ [(Role.ramOffset, b), (Role.get, c)], inputRole e.1 = true := by
  simp [inputRole]
theorem inputs_offset_getRam : ∀ e ∈ [(Role.ramOffset, b), (Role.getRam, c)], inputRole e.1 = true := by
  simp [inputRole]

/-- Settles O16: pass 1 reads the word, and pass 2 writes it to the destination. -/
theorem loadResults : Obligations.LoadResults := by
  constructor
  · intro s a b hres ha hb below
    exact runInstr_writes (fn := fnCopyB) hres (inputPass_out_getRam (.inl rfl) hb below) rfl
      (writebackPass_set_ok inputs_getRam ((s.canUse_advanced a).mpr ha))
  · intro s a b c hres ha hb hc below
    exact runInstr_writes (fn := fnCopyC) hres (inputPass_set_offset_getRam hb hc below) rfl
      (writebackPass_set_ok inputs_offset_getRam ((s.canUse_advanced a).mpr ha))

/-- Settles O17: pass 1 reads the word to store, from an operand or from memory, and pass 2 resolves the
address and stores it. -/
theorem storeResults : Obligations.StoreResults := by
  refine ⟨?str, ?lstr, ?cpy⟩
  case str =>
    intro s a b hres ha hb below
    exact runInstr_writes (fn := fnCopyB) hres (inputPass_setRam_get hb) rfl
      (writebackPass_setRam_ok inputs_get ((s.canUse_advanced a).mpr ha) below)
  case lstr =>
    intro s a b c hres ha hb hc below
    exact runInstr_writes (fn := fnCopyC) hres (inputPass_setRam_offset_get hb hc) rfl
      (writebackPass_setRam_ok inputs_offset_get ((s.canUse_advanced a).mpr ha) below)
  case cpy =>
    intro s a b hres ha hb source below
    exact runInstr_writes (fn := fnCopyB) hres (inputPass_out_getRam (.inr rfl) hb source) rfl
      (writebackPass_setRam_ok inputs_getRam ((s.canUse_advanced a).mpr ha) below)

/-- Settles O18: the read is in pass 1, before the execution function and the destination. -/
theorem loadsOutOfBoundsFault : Obligations.LoadsOutOfBoundsFault := by
  intro s a b c hres hb
  constructor
  · intro past
    exact ⟨runInstr_input_raises (fn := fnCopyB) hres (inputPass_out_getRam_past (.inl rfl) hb past),
      runInstr_input_raises (fn := fnCopyB) hres (inputPass_out_getRam_past (.inr rfl) hb past)⟩
  · intro hc past
    exact runInstr_input_raises (fn := fnCopyC) hres (inputPass_set_offset_getRam_past hb hc past)

/-- Settles O19: the address is resolved and checked in pass 2, after CPY's read. -/
theorem storesOutOfBoundsFault : Obligations.StoresOutOfBoundsFault := by
  intro s a b c hres ha hb
  have ha' := (s.canUse_advanced a).mpr ha
  constructor
  · intro past
    refine ⟨?_, fun source => ?_⟩
    · exact runInstr_write_raises (fn := fnCopyB) hres (inputPass_setRam_get hb) rfl
        (writebackPass_setRam_past inputs_get ha' past)
    · exact runInstr_write_raises (fn := fnCopyB) hres (inputPass_out_getRam (.inr rfl) hb source) rfl
        (writebackPass_setRam_past inputs_getRam ha' past)
  · intro hc past
    exact runInstr_write_raises (fn := fnCopyC) hres (inputPass_setRam_offset_get hb hc) rfl
      (writebackPass_setRam_past inputs_offset_get ha' past)

end Sys2Proof.Machine
end

section
/-! PROOFS. The stack instructions, within the stack and at each of its limits (44_stack.md, R69 to R71,
R261, R262). -/

namespace Sys2Proof.Machine

variable {s : State} {a : Operand} (hres : s.hasReserved)
include hres

/-! A push and a pop inside a step. -/

theorem push_advanced_ok (v : Word) (hw : s.sp.toNat < 2 ^ s.cfg.w.bits) (above : s.hsb < s.sp.toNat)
    (inMemory : s.sp.toNat ≤ s.msize) :
    push v s.advanced =
      .ok ((s.advanced.setReg 1 ((s.sp.toNat : Int) - 1)).stored (s.sp.toNat - 1) v) := by
  rw [push_advanced v hres hw above, memWrite_ok _ _ _ (by simp; omega)]

theorem push_advanced_overflow (v : Word) (boundary : s.sp.toNat ≤ s.hsb) :
    push v s.advanced = .raise .stackOverflow s.sp.toNat s.advanced := by
  rw [push_eq _ _ (State.hasReserved_advanced hres), State.advanced_sp, State.advanced_hsb, if_pos boundary]

theorem push_advanced_past (v : Word) (hw : s.sp.toNat < 2 ^ s.cfg.w.bits) (above : s.hsb < s.sp.toNat)
    (past : s.msize < s.sp.toNat) :
    push v s.advanced =
      .raise .storeOutOfBounds (s.sp.toNat - 1) (s.advanced.setReg 1 ((s.sp.toNat : Int) - 1)) := by
  rw [push_advanced v hres hw above, memWrite_raise _ _ _ (by simp; omega)]

theorem pop_advanced_underflow (top : s.msize ≤ s.sp.toNat) :
    pop s.advanced = .raise .stackUnderflow s.sp.toNat s.advanced := by
  rw [pop_eq _ (State.hasReserved_advanced hres), State.advanced_sp, State.advanced_msize, if_pos top]

/-- CAL reads the return address before it pushes (R261). -/
theorem fnCall_advanced (o : Slots) :
    fnCall o s.advanced = (push s.advanced.pc s.advanced).bind fun t => jumpTo o.a o t := by
  have inFile : pcIndex < s.advanced.regs.length := by
    rw [State.advanced_length]; exact Nat.lt_of_lt_of_le (by decide) hres
  rw [fnCall, readReg_ok _ _ inFile, Res.bind_ok]; rfl

omit hres in
theorem inputPass_get_alone (ha : s.canUse a) :
    inputPass s.advanced 0 0 Slots.zero [(.get, a)] = .ok (⟨s.advanced.value a, 0, 0⟩, 0) := by
  rw [inputPass_get _ _ ((s.canUse_advanced a).mpr ha), inputPass_nil]; rfl

/-! The instructions. -/

theorem exec_psh_ok (ha : s.canUse a) (hw : s.sp.toNat < 2 ^ s.cfg.w.bits) (above : s.hsb < s.sp.toNat)
    (inMemory : s.sp.toNat ≤ s.msize) :
    exec (.psh a) s = .next ((s.advanced.setReg 1 ((s.sp.toNat : Int) - 1)).stored (s.sp.toNat - 1)
      (s.advanced.value a)).completed := by
  refine runInstr_get a fnPush ⟨s.advanced.value a, 0, 0⟩ _ hres ha ?_
  rw [fnPush, push_advanced_ok hres _ hw above inMemory, Res.bind_ok]

theorem fnPop_advanced (below : s.sp.toNat < s.msize) :
    fnPop Slots.zero s.advanced =
      .ok (.complete ⟨s.wordAt s.sp.toNat, 0, 0⟩ (s.advanced.setReg 1 ((s.sp.toNat : Int) + 1))) := by
  rw [fnPop, pop_advanced hres below]; rfl

theorem exec_pop_ok (ha : s.canUse a) (below : s.sp.toNat < s.msize) :
    exec (.pop a) s = .next ((s.advanced.setReg 1 ((s.sp.toNat : Int) + 1)).assigned a
      (s.wordAt s.sp.toNat).toNat).completed := by
  have usable : (s.advanced.setReg 1 ((s.sp.toNat : Int) + 1)).canUse a := by simpa [State.canUse] using ha
  exact runInstr_writes hres (ops := [(.set, a)]) rfl (fnPop_advanced hres below)
    (writebackPass_set_ok (by simp) usable)

/-- An execution function that pushes first ends as its push does when that raises. -/
theorem exec_push_raises {c : FaultCode} {i : Nat} {t : State} (ha : s.canUse a)
    (hp : ∀ v, push v s.advanced = .raise c i t) :
    exec (.psh a) s = .next (s.faultedAs c i t) ∧ exec (.cal a) s = .next (s.faultedAs c i t) := by
  constructor
  · refine runInstr_fn_raises hres (inputPass_get_alone ha) ?_
    rw [fnPush, hp, Res.bind_raise]
  · refine runInstr_fn_raises hres (inputPass_get_alone ha) ?_
    rw [fnCall_advanced hres, hp, Res.bind_raise]

omit hres

/-- Settles O29: the push is in range, and CAL's jump comes after it. -/
theorem pushAndCallResults : Obligations.PushAndCallResults := by
  intro s a hres ha hw above inMemory
  refine ⟨exec_psh_ok hres ha hw above inMemory, ?_⟩
  refine runInstr_get a fnCall ⟨s.advanced.value a, 0, 0⟩ _ hres ha ?_
  rw [fnCall_advanced hres, push_advanced_ok hres _ hw above inMemory, Res.bind_ok,
    jumpTo_ok _ (by simpa [State.hasReserved] using hres)]

/-- Settles O30: the pop increments the SP before pass 2 writes POP's destination or RET jumps. -/
theorem popAndReturnResults : Obligations.PopAndReturnResults := by
  intro s a hres below
  refine ⟨fun ha => exec_pop_ok hres ha below, ?_⟩
  refine runInstr_noOperands fnReturn Slots.zero _ hres ?_
  rw [fnReturn, pop_advanced hres below, Res.bind_ok, jumpTo_ok _ (by simpa [State.hasReserved] using hres)]

/-- Settles O31: the boundary check comes before the decrement. -/
theorem pushAtBoundaryOverflows : Obligations.PushAtBoundaryOverflows := by
  intro s a hres ha boundary
  exact exec_push_raises hres ha fun v => push_advanced_overflow hres v boundary

/-- Settles O32: the check comes before the read and before pass 2. -/
theorem popAtTopUnderflows : Obligations.PopAtTopUnderflows := by
  intro s a hres top
  constructor
  · refine runInstr_fn_raises hres (o := Slots.zero) (off := 0) rfl ?_
    rw [fnPop, pop_advanced_underflow hres top, Res.bind_raise]
  · refine runInstr_fn_raises hres (o := Slots.zero) (off := 0) rfl ?_
    rw [fnReturn, pop_advanced_underflow hres top, Res.bind_raise]

/-- Settles O33: the decrement is committed when the store's own check fails. -/
theorem pushAboveMemoryFaultsAfterDecrement : Obligations.PushAboveMemoryFaultsAfterDecrement := by
  intro s a hres ha hw above past
  exact exec_push_raises hres ha fun v => push_advanced_past hres v hw above past

/-! A pop after a push. -/

/-- The state a push within the stack leaves (R69). -/
def State.pushed (s : State) (v : Word) : State :=
  (s.setReg 1 ((s.sp.toNat : Int) - 1)).stored (s.sp.toNat - 1) v

theorem State.sp_setReg (h : s.hasReserved) (v : Int) : (s.setReg 1 v).sp = trunc s.cfg.w v :=
  State.regAt_setReg_same s 1 v h

theorem State.pushed_hasReserved (h : s.hasReserved) (v : Word) : (s.pushed v).hasReserved := by
  simpa [State.hasReserved, State.pushed] using h

/-- The word below the old SP is the one pushed. -/
theorem State.wordAt_pushed (canonical : s.mem.wf) (v : Word) :
    (s.pushed v).wordAt (s.sp.toNat - 1) = trunc s.cfg.w v.toNat :=
  State.wordAt_stored_same (s.setReg 1 ((s.sp.toNat : Int) - 1)) _ v canonical

/-- The decremented SP is one less, as a number: a W-bit SP above the boundary is not 0. -/
theorem State.pushed_sp (h : s.hasReserved) (hw : s.sp.toNat < 2 ^ s.cfg.w.bits) (pos : 0 < s.sp.toNat)
    (v : Word) : (s.pushed v).sp.toNat = s.sp.toNat - 1 := by
  change (s.setReg 1 ((s.sp.toNat : Int) - 1)).sp.toNat = _
  have reduced := trunc_toNat s.cfg.w ((s.sp.toNat : Int) - 1)
  have word : (s.sp.toNat : Int) < 2 ^ s.cfg.w.bits := by exact_mod_cast hw
  rw [Int.emod_eq_of_lt (by omega) (by omega)] at reduced
  rw [State.sp_setReg h]
  omega

/-- Incrementing the number below a word gives the word back. -/
theorem trunc_succ_pred {w : Width} {v : Word} (hv : v.toNat < 2 ^ w.bits) (pos : 0 < v.toNat) :
    trunc w (((v.toNat - 1 : Nat) : Int) + 1) = v := by
  have value : ((v.toNat - 1 : Nat) : Int) + 1 = v.toNat := by omega
  rw [value, trunc_word w v hv]

/-- A push that succeeds was above the boundary and in memory (R69). -/
theorem push_eq_ok {t : State} {v : Word} (h : s.hasReserved) (hw : s.sp.toNat < 2 ^ s.cfg.w.bits)
    (hpush : push v s = .ok t) : 0 < s.sp.toNat ∧ s.sp.toNat - 1 < s.msize ∧ t = s.pushed v := by
  rw [push_eq _ _ h] at hpush
  split at hpush
  case isTrue => cases hpush
  case isFalse above =>
    have pos : 0 < s.sp.toNat := by omega
    have lower : (s.setReg 1 ((s.sp.toNat : Int) - 1)).sp.toNat = s.sp.toNat - 1 :=
      State.pushed_sp h hw pos v
    rw [lower] at hpush
    by_cases inRange : s.sp.toNat - 1 < s.msize
    case neg =>
      rw [memWrite_raise _ _ _ (by simpa using inRange)] at hpush
      cases hpush
    case pos =>
      rw [memWrite_ok _ _ _ (by simpa using inRange)] at hpush
      exact ⟨pos, inRange, (Res.ok.inj hpush).symm⟩

theorem pop_ok (h : s.hasReserved) (below : s.sp.toNat < s.msize) :
    pop s = .ok (s.wordAt s.sp.toNat, s.setReg 1 ((s.sp.toNat : Int) + 1)) := by
  rw [pop_eq _ h, if_neg (Nat.not_le.mpr below)]

/-- Settles O34: the push leaves the SP one lower, at the address it stored to, where the pop reads and
increments. -/
theorem pushThenPopRestores : Obligations.PushThenPopRestores := by
  intro s t v hres canonical hw hpush
  obtain ⟨pos, inRange, rfl⟩ := push_eq_ok hres hw hpush
  have lower := State.pushed_sp hres hw pos v
  have reserved := State.pushed_hasReserved hres v
  have pops := pop_ok reserved (lower ▸ inRange)
  rw [lower, State.wordAt_pushed canonical] at pops
  refine ⟨_, pops, ?_⟩
  rw [State.sp_setReg reserved]
  exact trunc_succ_pred hw pos

theorem State.sp_lt_two_pow (inv : s.Inv) (h : s.hasReserved) : s.sp.toNat < 2 ^ s.cfg.w.bits := by
  have inFile : 1 < s.regs.length := h
  have isReg : s.sp = s.regs[1] := by simp [State.sp, State.regAt, inFile]
  exact isReg ▸ inv.regWords _ (List.getElem_mem inFile)

/-- What PSH of a word within the stack leaves for the next instruction. -/
theorem exec_psh_leaves (inv : s.Inv) (hres : s.hasReserved) (ha : s.canUse a)
    (word : (s.advanced.value a).toNat < 2 ^ s.cfg.w.bits) (above : s.hsb < s.sp.toNat)
    (inMemory : s.sp.toNat ≤ s.msize) :
    ∃ t, exec (.psh a) s = .next t ∧ t.cfg = s.cfg ∧ t.regs.length = s.regs.length ∧
      t.sp.toNat = s.sp.toNat - 1 ∧ t.wordAt (s.sp.toNat - 1) = s.advanced.value a := by
  have hw := State.sp_lt_two_pow inv hres
  have pushes := exec_psh_ok hres ha hw above inMemory
  have lower := State.pushed_sp (State.hasReserved_advanced hres) (by rw [s.advanced_sp]; exact hw)
    (by rw [s.advanced_sp]; omega) (s.advanced.value a)
  have stored := State.wordAt_pushed (s := s.advanced) inv.memCanonical (s.advanced.value a)
  simp only [State.pushed, s.advanced_sp] at lower stored
  refine ⟨_, pushes, rfl, ?_, lower, stored.trans (trunc_word _ _ word)⟩
  change (s.advanced.setReg 1 _).regs.length = _
  rw [State.setReg_length, State.advanced_length]

/-- Settles O35: POP reads where PSH stored and increments what PSH decremented; its destination is neither
the PC nor the SP. -/
theorem pshThenPopMovesWord : Obligations.PshThenPopMovesWord := by
  intro s a d inv hres ha word isReg general inFile above inMemory
  obtain ⟨t, pushes, cfg, length, lower, stored⟩ := exec_psh_leaves inv hres ha word above inMemory
  have reserved : t.hasReserved := by rw [State.hasReserved, length]; exact hres
  have inFileT : d.value.toNat < t.regs.length := length ▸ inFile
  have inMemoryT : t.sp.toNat < t.msize := by
    rw [lower, State.msize, cfg]
    change _ < s.msize
    omega
  have pops := exec_pop_ok (a := d) reserved (.inr ⟨isReg, inFileT⟩) inMemoryT
  rw [State.assigned_reg _ _ _ isReg, lower, stored] at pops
  refine ⟨t, _, pushes, pops, ?_, ?_, stored⟩
  · change ((t.advanced.setReg 1 _).setReg d.value.toNat _).regAt 1 = _
    rw [State.regAt_setReg_other _ _ _ _ (by omega), ← State.sp,
      State.sp_setReg (State.hasReserved_advanced reserved), State.advanced_cfg, cfg]
    exact trunc_succ_pred (State.sp_lt_two_pow inv hres) (by omega)
  · change ((t.advanced.setReg 1 _).setReg d.value.toNat _).regAt d.value.toNat = _
    rw [State.regAt_setReg_same _ _ _ (by simpa using inFileT), State.setReg_cfg, State.advanced_cfg, cfg]
    exact trunc_word _ _ word

end Sys2Proof.Machine
end

section
/-! PROOFS. IN and OUT on bound and unbound ports (45_io.md). -/

namespace Sys2Proof.Machine

variable {s : State} {port : Word}

/-! What an input request answers (R292, R303). -/

theorem portIn_unbound (h : boundDevice s.registry.inMap port = none) :
    portIn port s = (.unbound, s.report (.warn .unboundInput port)) := by
  rw [portIn, h]

variable {d : Nat} (bound : boundDevice s.registry.inMap port = some d)
include bound

theorem portIn_scripted {answer : InputAnswer} {rest : List InputAnswer}
    (script : s.oracle.script = answer :: rest) :
    portIn port s = (.ofAnswer answer, s.withOracle { s.oracle with script := rest }) := by
  simp only [portIn, bound, script]

theorem portIn_free (script : s.oracle.script = []) :
    portIn port s = (.ofAnswer (Config.deviceAnswer d port s.oracle.draws),
      s.withOracle { s.oracle with draws := s.oracle.draws + 1 }) := by
  simp only [portIn, bound, script]

omit bound

/-! What IN makes of the answer (R294). -/

variable {o : Slots} {t : State}

theorem fnIn_value {v : Nat} (h : portIn o.b s = (.value v, t)) :
    fnIn o s = .ok (.complete { o with a := trunc t.cfg.w v } t) := by rw [fnIn, h]

theorem fnIn_unbound (h : portIn o.b s = (.unbound, t)) : fnIn o s = .ok (.complete o t) := by
  rw [fnIn, h]

theorem fnIn_pending (h : portIn o.b s = (.pending, t)) : fnIn o s = .ok (.incomplete t) := by
  rw [fnIn, h]

/-! The instruction, for each answer of its port. -/

section In

variable {a b : Operand} (hres : s.hasReserved) (hb : s.canUse b)
include hres hb

/-- A value completes IN when its destination can be written (R294, R300). -/
theorem exec_in_value {v : Nat} (h : portIn (s.advanced.value b) s.advanced = (.value v, t))
    (ha : t.canUse a) : exec (.inPort a b) s = .next (t.assigned a v).completed := by
  have writes := writebackPass_set_ok (s := t) (off := 0)
    (o := ⟨trunc t.cfg.w v, s.advanced.value b, 0⟩) (inputs_get (b := b)) ha
  rw [State.assigned_trunc] at writes
  exact runInstr_writes hres (inputPass_set_get hb) (fnIn_value h) writes

/-- An unbound port leaves the slot of the destination at its initial 0 (D9, D10). -/
theorem exec_in_unbound (h : portIn (s.advanced.value b) s.advanced = (.unbound, t))
    (ha : t.canUse a) : exec (.inPort a b) s = .next (t.assigned a 0).completed :=
  runInstr_writes hres (inputPass_set_get hb) (fnIn_unbound h) (writebackPass_set_ok inputs_get ha)

/-- A pending device suspends IN on its destination, whatever its kind (R296). -/
theorem exec_in_pending (h : portIn (s.advanced.value b) s.advanced = (.pending, t)) :
    exec (.inPort a b) s = .next ((t.withPending
      { valid := true, kind := a.kind, value := a.value, index := s.pc }).withStatus .awaitingInput) :=
  runInstr_suspends hres (inputPass_set_get hb) (fnIn_pending h)

/-- With an answer for a destination of a bad kind, the answer is consumed and the step faults (R126). -/
theorem exec_in_badKind {v : Nat} (ha : a.badKind)
    (h : portIn (s.advanced.value b) s.advanced = (.value v, t) ∨
      portIn (s.advanced.value b) s.advanced = (.unbound, t)) :
    exec (.inPort a b) s = .next (s.faultedAs .badOperandKind 0 t) := by
  rcases h with h | h
  · exact runInstr_write_raises hres (inputPass_set_get hb) (fnIn_value h)
      (writebackPass_set_badKind inputs_get ha)
  · exact runInstr_write_raises hres (inputPass_set_get hb) (fnIn_unbound h)
      (writebackPass_set_badKind inputs_get ha)

end In

/-- Settles O37: the port's answer selects the way IN ends. -/
theorem inResults : Obligations.InResults := by
  intro s a b hres hb
  refine ⟨?unbound, ?value, ?pending⟩
  case unbound =>
    intro ha absent
    exact exec_in_unbound hres hb (portIn_unbound absent) ((s.canUse_advanced a).mpr ha)
  case value =>
    intro d v rest ha bound script
    exact exec_in_value hres hb (portIn_scripted (s := s.advanced) bound script)
      ((s.canUse_advanced a).mpr ha)
  case pending =>
    intro d rest bound script
    exact exec_in_pending hres hb (portIn_scripted (s := s.advanced) bound script)

/-- Settles O38: the free answer takes the place of a scripted one. -/
theorem inFollowsFreeAnswer : Obligations.InFollowsFreeAnswer := by
  intro s a b d hres hb bound script
  have answers := portIn_free (s := s.advanced) bound script
  constructor
  · intro v ha free
    rw [State.advanced_oracle, free] at answers
    exact exec_in_value hres hb answers ((s.canUse_advanced a).mpr ha)
  · intro free
    rw [State.advanced_oracle, free] at answers
    exact exec_in_pending hres hb answers

theorem portOut_bound {value : Word} (bound : boundDevice s.registry.outMap port = some d) :
    portOut port value s = s.emit (.out port value) := by
  rw [portOut, bound]

theorem portOut_unbound {value : Word} (h : boundDevice s.registry.outMap port = none) :
    portOut port value s = s.report (.warn .unboundOutput port) := by
  rw [portOut, h]

theorem exec_out {a b : Operand} (hres : s.hasReserved) (ha : s.canUse a) (hb : s.canUse b) :
    exec (.outPort a b) s =
      .next (portOut (s.advanced.value a) (s.advanced.value b) s.advanced).completed :=
  runInstr_get_get a b fnOut _ _ hres ha hb rfl

/-- Settles O39: OUT completes with whatever the port map makes of the value. -/
theorem outResults : Obligations.OutResults := by
  intro s a b hres ha hb
  constructor
  · intro d bound
    rw [exec_out hres ha hb, portOut_bound (s := s.advanced) bound]
  · intro absent
    rw [exec_out hres ha hb, portOut_unbound (s := s.advanced) absent]

end Sys2Proof.Machine
end

section
/-! PROOFS. Operands of an unrecognised kind: as an input they fault in pass 1, as a destination in pass 2
(R125 to R127, R130). -/

namespace Sys2Proof.Machine

variable {s : State}

/-! Pass 1. -/

/-- No role of the table reads an operand after a memory read, whose bounds fault would come first (R104). -/
theorem dispatchRoles_getRam_last (opc : BitVec 8) :
    ∀ roles ∈ dispatchRoles opc.toNat, roles.Pairwise fun r _ => r ≠ .getRam := by
  revert opc
  decide

/-- Pass 1 faults on an input operand of a bad kind, whichever operand it is: the inputs before it are read
without a fault. -/
theorem inputPass_badKind {ops : List (Role × Operand)} (j off : Nat) (o : Slots)
    (inFile : ∀ e ∈ ops, e.2.kind = .reg → e.2.value.toNat < s.regs.length)
    (getRamLast : ops.Pairwise fun d _ => d.1 ≠ .getRam)
    (bad : ∃ e ∈ ops, inputRole e.1 = true ∧ e.2.badKind) :
    inputPass s j off o ops = .raise .badOperandKind 0 s := by
  induction ops generalizing j off o with
  | nil => simp at bad
  | cons e rest ih =>
    obtain ⟨r, x⟩ := e
    obtain ⟨head, tail⟩ := List.pairwise_cons.mp getRamLast
    obtain ⟨xInFile, restInFile⟩ := List.forall_mem_cons.mp inFile
    have ih := fun j off o => ih j off o restInFile tail
    rcases List.exists_mem_cons_iff .. |>.mp bad with ⟨input, xBad⟩ | later
    · cases r with
      | get | getRam | ramOffset => rw [inputPass, resolve_badKind s x xBad, Res.bind_raise]
      | set | setRam => cases input
    · have notGetRam : r ≠ .getRam := by
        obtain ⟨e, he, -⟩ := later
        exact head e he
      cases r with
      | getRam => exact absurd rfl notGetRam
      | set | setRam => exact ih _ _ _ later
      | get | ramOffset =>
        rcases resolve_cases s x with ⟨usable, _⟩ | ⟨_, faults⟩ | ⟨isReg, outside, _⟩
        · simp only [inputPass_get _ _ usable, inputPass_ramOffset _ _ usable]
          exact ih _ _ _ later
        · rw [inputPass, faults, Res.bind_raise]
        · exact absurd (xInFile isReg) (Nat.not_lt.mpr outside)

/-- The table gives each instruction as many roles as it has operands (R94). -/
theorem length_roles {i : Instr} {roles : List Role}
    (h : dispatchRoles (opcodeOf i).toNat = some roles) : roles.length = i.operands.length := by
  have notHlt : (opcodeOf i).toNat ≠ 0x24 := by
    intro isHlt
    rw [isHlt] at h
    cases h
  have count := operandCount_opcodeOf i
  rw [operandCount, if_neg notHlt, h] at count
  exact Option.some_inj.mp count

/-- Every instruction with a role list is the dispatcher over that list. -/
theorem exec_behaves_of_roles {i : Instr} {roles : List Role}
    (h : dispatchRoles (opcodeOf i).toNat = some roles) :
    ∃ fn, (∀ s, exec i s = runInstr (roles.zip i.operands) fn s) ∧ Behaves i roles fn := by
  have notHlt : i ≠ .hlt := by rintro rfl; cases h
  obtain ⟨roles', fn, h', hexec, hb⟩ := exec_behaves i notHlt
  obtain rfl : roles = roles' := Option.some_inj.mp (h.symm.trans h')
  exact ⟨fn, hexec, hb⟩

/-- Settles O43: pass 1 raises the fault before the execution function runs. -/
theorem badKindInputFaults : Obligations.BadKindInputFaults := by
  intro s i roles hres inFile hroles bad
  obtain ⟨fn, hexec, -⟩ := exec_behaves_of_roles hroles
  rw [hexec]
  refine runInstr_input_raises hres (inputPass_badKind _ _ _ ?_ ?_ bad)
  · intro e he isReg
    rw [State.advanced_length]
    exact inFile e.2 (List.of_mem_zip he).2 isReg
  · refine .of_map (S := fun r _ => r ≠ .getRam) Prod.fst (fun _ _ => id) ?_
    rw [List.map_fst_zip (length_roles hroles).le]
    exact dispatchRoles_getRam_last _ _ hroles

/-! Pass 2. -/

/-- A function of an ALU instruction or a move that cannot fault leaves the destination to pass 2. -/
theorem exec_computes_of_roles {i : Instr} {roles : List Role}
    (h : dispatchRoles (opcodeOf i).toNat = some roles)
    (hroles : roles = [.set, .get] ∨ roles = [.set, .get, .get])
    (hopc : opcodeOf i ∉ [(0x29 : BitVec 8), 0x2A, 0x39, 0x43]) :
    ∃ fn, (∀ s, exec i s = runInstr (roles.zip i.operands) fn s) ∧ fn.Computes := by
  obtain ⟨fn, hexec, hb⟩ := exec_behaves_of_roles h
  refine ⟨fn, hexec, ?_⟩
  cases hb with
  | computes _ hf => exact hf
  | divides f isDivision =>
    simp only [List.mem_cons, List.not_mem_nil, or_false, not_or] at isDivision hopc
    tauto
  | branches inputs _ =>
    have output : Role.set ∈ roles := by rcases hroles with rfl | rfl <;> simp
    cases inputs _ output
  | inputs a b => simp [opcodeOf] at hopc
  | pushes | calls | pops | returns | outputs => simp at hroles

/-- Settles O44: each destination is written last, on the state that the execution function left. -/
theorem badKindTargetFaults : Obligations.BadKindTargetFaults := by
  refine ⟨?computed, ?moved, ?popped, ?received⟩
  case computed =>
    intro s i roles a rest hres h hroles hopc hops ha hrest
    have length := length_roles h
    obtain ⟨fn, hexec, g, hf⟩ := exec_computes_of_roles h hroles hopc
    rw [hexec, hops]
    rw [hops] at length
    rcases hroles with rfl | rfl
    · obtain ⟨b, rfl⟩ := List.length_eq_one_iff.mp (show rest.length = 1 by simpa using length.symm)
      exact runInstr_write_raises hres (inputPass_set_get (hrest b (by simp))) (hf _ _)
        (writebackPass_set_badKind inputs_get ha)
    · obtain ⟨b, c, rfl⟩ := List.length_eq_two.mp (show rest.length = 2 by simpa using length.symm)
      exact runInstr_write_raises hres
        (inputPass_set_get_get (hrest b (by simp)) (hrest c (by simp))) (hf _ _)
        (writebackPass_set_badKind inputs_get_get ha)
  case moved =>
    intro s a b c hres ha hb hc
    refine ⟨?_, ?_, fun below => ⟨?_, ?_⟩, fun below => ?_, fun nonzero => ?_⟩
    · exact runInstr_write_raises (fn := fnCopyB) hres (inputPass_setRam_get hb) rfl
        (writebackPass_setRam_badKind inputs_get ha)
    · exact runInstr_write_raises (fn := fnCopyC) hres (inputPass_setRam_offset_get hb hc) rfl
        (writebackPass_setRam_badKind inputs_offset_get ha)
    · exact runInstr_write_raises (fn := fnCopyB) hres (inputPass_out_getRam (.inr rfl) hb below) rfl
        (writebackPass_setRam_badKind inputs_getRam ha)
    · exact runInstr_write_raises (fn := fnCopyB) hres (inputPass_out_getRam (.inl rfl) hb below) rfl
        (writebackPass_set_badKind inputs_getRam ha)
    · exact runInstr_write_raises (fn := fnCopyC) hres (inputPass_set_offset_getRam hb hc below) rfl
        (writebackPass_set_badKind inputs_offset_getRam ha)
    · have faults (f) : runInstr [(.set, a), (.get, b), (.get, c)] (fnDivide f) s =
          .next (s.faultedAs .badOperandKind 0 s.advanced) :=
        runInstr_write_raises hres (inputPass_set_get_get hb hc) (if_neg nonzero)
          (writebackPass_set_badKind inputs_get_get ha)
      exact ⟨faults aluDiv, faults aluMod, faults aluSdiv⟩
  case popped =>
    intro s a hres ha below
    exact runInstr_write_raises hres (ops := [(.set, a)]) rfl (fnPop_advanced hres below)
      (writebackPass_set_badKind (by simp) ha)
  case received =>
    intro s a b hres ha hb
    refine ⟨?_, ?_, ?_⟩
    · intro absent
      exact exec_in_badKind (v := 0) hres hb ha (.inr (portIn_unbound absent))
    · intro d v rest bound script
      exact exec_in_badKind hres hb ha (.inl (portIn_scripted (s := s.advanced) bound script))
    · intro d v bound script free
      have answers := portIn_free (s := s.advanced) bound script
      rw [State.advanced_oracle, free] at answers
      exact exec_in_badKind hres hb ha (.inl answers)

end Sys2Proof.Machine
end

section
/-! PROOFS. Frames: what a step leaves as it was, from what each of its pieces touches (R30, R66, R133,
R323). -/

namespace Sys2Proof.Machine

/-! The states a piece of a step can leave. -/

/-- A result satisfies `P`, and a fault is raised in a state that satisfies `Q`. -/
def Res.Leaves {α : Type} (P : α → Prop) (Q : State → Prop) : Res α → Prop
  | .ok a => P a
  | .raise _ _ t => Q t
  | .stuck _ => True

section Leaves

variable {α β : Type} {P P' : α → Prop} {Q Q' : State → Prop} {R : β → Prop} {r : Res α}

theorem Res.Leaves.bind {k : α → Res β} (h : r.Leaves P Q) (hk : ∀ a, P a → (k a).Leaves R Q) :
    (r.bind k).Leaves R Q := by
  cases r with
  | ok a => exact hk a h
  | raise c i t => exact h
  | stuck f => trivial

theorem Res.Leaves.mono (h : r.Leaves P Q) (hP : ∀ a, P a → P' a) (hQ : ∀ t, Q t → Q' t) :
    r.Leaves P' Q' := by
  cases r with
  | ok a => exact hP a h
  | raise c i t => exact hQ t h
  | stuck f => trivial

end Leaves

variable {s t u : State}

theorem writeReg_leaves (i : Nat) (v : Int) (Q : State → Prop) :
    (writeReg i v s).Leaves (· = s.setReg i v) Q := by
  rw [writeReg_eq]
  split
  · rfl
  · trivial

theorem resolve_leaves (x : Operand) : (resolve x s).Leaves (· = s.value x) (· = s) := by
  rcases resolve_cases s x with ⟨_, h⟩ | ⟨_, h⟩ | ⟨_, _, h⟩ <;> rw [h]
  · rfl
  · rfl
  · trivial

theorem writeTarget_leaves (x : Operand) (v : Int) :
    (writeTarget x v s).Leaves (· = s.assigned x v) (· = s) := by
  rcases writeTarget_cases s x v with ⟨_, h⟩ | ⟨_, h⟩ | ⟨_, _, h⟩ <;> rw [h]
  · rfl
  · rfl
  · trivial

theorem memRead_leaves (a : Nat) : (memRead a s).Leaves (fun _ => True) (· = s) := by
  unfold memRead
  split
  · rfl
  · trivial

theorem memWrite_leaves (a : Nat) (v : Word) : (memWrite a v s).Leaves (· = s.stored a v) (· = s) := by
  unfold memWrite
  split <;> rfl

/-- A push stores below the SP or faults, before the decrement or after it (R69). -/
theorem push_leaves (v : Word) (hres : s.hasReserved) :
    (push v s).Leaves
      (· = (s.setReg 1 ((s.sp.toNat : Int) - 1)).stored (s.setReg 1 ((s.sp.toNat : Int) - 1)).sp.toNat v)
      (fun t => t = s ∨ t = s.setReg 1 ((s.sp.toNat : Int) - 1)) := by
  rw [push_eq _ _ hres]
  split
  · exact .inl rfl
  · exact (memWrite_leaves _ _).mono (fun _ => id) fun _ => .inr

theorem pop_leaves (hres : s.hasReserved) :
    (pop s).Leaves (fun r => r.2 = s.setReg 1 ((s.sp.toNat : Int) + 1)) (· = s) := by
  rw [pop_eq _ hres]
  split <;> rfl

/-- A jump never faults. -/
theorem jumpTo_leaves (v : Word) (o : Slots) (Q : State → Prop) :
    (jumpTo v o s).Leaves (· = .complete o (s.setReg 0 v.toNat)) Q :=
  (writeReg_leaves _ _ _).bind fun _ h => congrArg (FnResult.complete o) h

/-- Without a RAM_OFFSET operand the offset latch keeps its value (R128). -/
theorem inputPass_offset (ops : List (Role × Operand)) (j off : Nat) (o : Slots)
    (none : ∀ e ∈ ops, e.1 ≠ .ramOffset) :
    (inputPass s j off o ops).Leaves (·.2 = off) (fun _ => True) := by
  induction ops generalizing j o with
  | nil => rfl
  | cons e rest ih =>
    obtain ⟨r, x⟩ := e
    obtain ⟨head, tail⟩ := List.forall_mem_cons.mp none
    have reads := (resolve_leaves (s := s) x).mono (Q' := fun _ => True) (fun _ => id) fun _ _ => trivial
    cases r with
    | ramOffset => exact absurd rfl head
    | set | setRam => exact ih _ _ tail
    | get => exact reads.bind fun _ _ => ih _ _ tail
    | getRam =>
      refine reads.bind fun v _ => ((memRead_leaves _).mono (fun _ => id) fun _ _ => trivial).bind ?_
      exact fun _ _ => ih _ _ tail

section Writeback

variable {rest : List (Role × Operand)} (inputs : ∀ e ∈ rest, inputRole e.1 = true) (off : Nat)
  (o : Slots) (x : Operand)
include inputs

theorem writebackPass_set_leaves :
    (writebackPass 0 off o ((.set, x) :: rest) s).Leaves (· = s.assigned x o.a.toNat) (· = s) := by
  rw [writebackPass_set inputs]
  exact writeTarget_leaves x _

theorem writebackPass_setRam_leaves :
    (writebackPass 0 off o ((.setRam, x) :: rest) s).Leaves
      (· = s.stored ((s.value x).toNat + off) o.a) (· = s) := by
  rw [writebackPass_setRam inputs]
  refine (resolve_leaves x).bind ?_
  rintro _ rfl
  exact memWrite_leaves _ _

/-- With operand 0 the only output, pass 2 raises its faults in the state it was given. -/
theorem writebackPass_raises (r : Role) :
    (writebackPass 0 off o ((r, x) :: rest) s).Leaves (fun _ => True) (· = s) := by
  cases r with
  | set => exact (writebackPass_set_leaves inputs off o x).mono (fun _ _ => trivial) fun _ => id
  | setRam => exact (writebackPass_setRam_leaves inputs off o x).mono (fun _ _ => trivial) fun _ => id
  | get | getRam | ramOffset =>
    rw [writebackPass_inputs 0 off (List.forall_mem_cons.mpr ⟨rfl, inputs⟩)]
    trivial

end Writeback

/-- The step ends in a state the execution function and pass 2 leave, or takes a fault in a state they raise
one in; pass 1 faults in the advanced state. -/
theorem runInstr_leaves {ops : List (Role × Operand)} {fn : Fn} {Q R : State → Prop}
    (hres : s.hasReserved) (h : runInstr ops fn s = .next t) (start : R s.advanced)
    (hfn : ∀ o off, inputPass s.advanced 0 0 Slots.zero ops = .ok (o, off) →
      ((fn o s.advanced).bind (afterFn s.pc off ops)).Leaves Q R) :
    Q t ∨ ∃ c i u, R u ∧ t = s.faultedAs c i u := by
  rw [runInstr_eq s ops fn hres] at h
  have leaves : ((inputPass s.advanced 0 0 Slots.zero ops).bind fun r =>
      (fn r.1 s.advanced).bind (afterFn s.pc r.2 ops)).Leaves Q R := by
    cases hin : inputPass s.advanced 0 0 Slots.zero ops with
    | ok r => exact hfn r.1 r.2 hin
    | raise c i u =>
      rw [(inputPass_raise _ _ _ _ _ _ _ _ hin).1]
      exact start
    | stuck f => trivial
  rcases (finish_eq_next _ _ _).mp h with hok | ⟨c, i, u, hraise, rfl⟩
  · rw [hok] at leaves
    exact .inl leaves
  · rw [hraise] at leaves
    exact .inr ⟨c, i, u, leaves, rfl⟩

/-! What a piece of a step touches. -/

/-- From `s` to `t`, registers other than `regs` and words of memory other than `addrs` are untouched, as are
the setup, PENDING and the fault registers. -/
structure Touches (regs addrs : List Nat) (s t : State) : Prop where
  setup : SameSetup s t
  registers : SameRegistersExcept regs s t
  memory : ∀ x, x ∉ addrs → t.wordAt x = s.wordAt x
  pending : t.pending = s.pending
  fault : t.fault = s.fault

/-- The environment's side and the diagnostics are untouched as well. -/
structure QuietlyTouches (regs addrs : List Nat) (s t : State) : Prop extends Touches regs addrs s t where
  environment : SameEnvironment s t
  diagnostics : t.diagnostics = s.diagnostics

variable {regs addrs : List Nat}

theorem Touches.refl (s : State) : Touches regs addrs s s :=
  ⟨⟨rfl, rfl, rfl, rfl⟩, ⟨rfl, fun _ _ => rfl⟩, fun _ _ => rfl, rfl, rfl⟩

theorem Touches.setReg (h : Touches regs addrs s t) {i : Nat} (hi : i ∈ regs) (v : Int) :
    Touches regs addrs s (t.setReg i v) where
  setup := h.setup
  registers := by
    obtain ⟨length, others⟩ := h.registers
    refine ⟨(State.setReg_length ..).trans length, fun j hj => ?_⟩
    have other : j ≠ i := by rintro rfl; exact hj hi
    rw [State.regAt_setReg_other _ _ _ _ other]
    exact others j hj
  memory := h.memory
  pending := h.pending
  fault := h.fault

theorem Touches.stored (h : Touches regs addrs s t) {a : Nat} (ha : a ∈ addrs) (v : Word) :
    Touches regs addrs s (t.stored a v) where
  setup := h.setup
  registers := h.registers
  memory x hx := by
    have other : x ≠ a := by rintro rfl; exact hx ha
    rw [t.wordAt_stored_other a v x other]
    exact h.memory x hx
  pending := h.pending
  fault := h.fault

theorem Touches.assigned (h : Touches regs addrs s t) {x : Operand} (hx : writtenBy x ⊆ regs) (v : Int) :
    Touches regs addrs s (t.assigned x v) := by
  rcases State.assigned_cases t x v with same | ⟨isReg, written⟩
  · rw [same]; exact h
  · rw [written]
    exact h.setReg (hx (by simp [writtenBy, isReg])) v

theorem Touches.advanced (h0 : 0 ∈ regs) : Touches regs addrs s s.advanced :=
  (Touches.refl s).setReg h0 _

theorem Touches.portIn (h : Touches regs addrs s t) (port : Word) :
    Touches regs addrs s (portIn port t).2 := by
  rcases portIn_cases t port with ⟨_, he⟩ | ⟨_, _, _, _, _, he⟩ | ⟨_, _, _, he⟩ <;> rw [he] <;>
    exact { h with }

theorem Touches.portOut (h : Touches regs addrs s t) (port value : Word) :
    Touches regs addrs s (portOut port value t) := by
  rcases portOut_cases t port value with ⟨_, he⟩ | ⟨_, _, he⟩ <;> rw [he] <;> exact { h with }

section Quietly

variable (h : QuietlyTouches regs addrs s t)
include h

theorem QuietlyTouches.setReg {i : Nat} (hi : i ∈ regs) (v : Int) :
    QuietlyTouches regs addrs s (t.setReg i v) :=
  { h.toTouches.setReg hi v with environment := h.environment, diagnostics := h.diagnostics }

theorem QuietlyTouches.stored {a : Nat} (ha : a ∈ addrs) (v : Word) :
    QuietlyTouches regs addrs s (t.stored a v) :=
  { h.toTouches.stored ha v with environment := h.environment, diagnostics := h.diagnostics }

theorem QuietlyTouches.assigned {x : Operand} (hx : writtenBy x ⊆ regs) (v : Int) :
    QuietlyTouches regs addrs s (t.assigned x v) := by
  rcases State.assigned_cases t x v with same | ⟨isReg, written⟩
  · rw [same]; exact h
  · rw [written]
    exact h.setReg (hx (by simp [writtenBy, isReg])) v

omit h in
theorem QuietlyTouches.advanced (h0 : 0 ∈ regs) : QuietlyTouches regs addrs s s.advanced :=
  { Touches.advanced h0 with environment := ⟨rfl, rfl⟩, diagnostics := rfl }

end Quietly

/-- The step from `s` ended in `t`, with STATUS = `st` or in a fault, having touched no more than `regs` and
`addrs`. -/
def EndsTouching (regs addrs : List Nat) (st : Status) (s t : State) : Prop :=
  ∃ u, QuietlyTouches regs addrs s u ∧ (t = u.withStatus st ∨ ∃ c i, t = s.faultedAs c i u)

/-- Only a fault adds to the records. -/
theorem EndsTouching.frame {st : Status} (h : EndsTouching regs addrs st s t) :
    SameSetup s t ∧ SameEnvironment s t ∧ SameRegistersExcept regs s t ∧
      (t.status ≠ .faulted → SameRecords s t) ∧ ∀ x, x ∉ addrs → t.wordAt x = s.wordAt x := by
  obtain ⟨u, h, rfl | ⟨c, i, rfl⟩⟩ := h
  · exact ⟨h.setup, h.environment, h.registers, fun _ => ⟨h.pending, h.fault, h.diagnostics⟩, h.memory⟩
  · exact ⟨h.setup, h.environment, h.registers, fun notFaulted => absurd rfl notFaulted, h.memory⟩

theorem EndsTouching.status {st : Status} (h : EndsTouching regs addrs st s t) :
    t.status = st ∨ t.status = .faulted := by
  obtain ⟨u, -, rfl | ⟨c, i, rfl⟩⟩ := h
  · exact .inl rfl
  · exact .inr rfl

/-- A step that completes or faults touches what its execution function and pass 2 do. -/
theorem runInstr_endsTouching {ops : List (Role × Operand)} {fn : Fn} (hres : s.hasReserved)
    (h0 : 0 ∈ regs) (h : runInstr ops fn s = .next t)
    (hfn : ∀ o off, inputPass s.advanced 0 0 Slots.zero ops = .ok (o, off) →
      (fn o s.advanced).Leaves
        (fun r => ∃ o' u, r = .complete o' u ∧ (writebackPass 0 off o' ops u).Leaves
          (QuietlyTouches regs addrs s) (QuietlyTouches regs addrs s))
        (QuietlyTouches regs addrs s)) :
    EndsTouching regs addrs .ready s t := by
  have ends := runInstr_leaves (Q := fun t => ∃ u, QuietlyTouches regs addrs s u ∧ t = u.completed)
    hres h (QuietlyTouches.advanced h0) fun o off hin => (hfn o off hin).bind ?_
  · rcases ends with ⟨u, touches, rfl⟩ | ⟨c, i, u, touches, rfl⟩
    · exact ⟨u, touches, .inl rfl⟩
    · exact ⟨u, touches, .inr ⟨c, i, rfl⟩⟩
  · rintro _ ⟨o', u, rfl, writes⟩
    exact writes.bind fun v touches => ⟨v, touches, rfl⟩

end Sys2Proof.Machine
end

section
/-! PROOFS. The frame of each family of instructions (41_data_movement.md to 45_io.md). -/

namespace Sys2Proof.Machine

variable {s t : State} {i : Instr} {fn : Fn} {ops : List (Role × Operand)} {regs addrs : List Nat}

/-- The inputs of a role list are those of its operand list. -/
theorem inputs_zip {roles : List Role} (operands : List Operand)
    (inputs : ∀ r ∈ roles, inputRole r = true) :
    ∀ e ∈ roles.zip operands, inputRole e.1 = true :=
  fun _ he => inputs _ (List.of_mem_zip he).1

/-! The moves, the ALU instructions and the loads. -/

/-- The function leaves the machine alone, or faults in it. -/
def Fn.LeavesMachine (fn : Fn) : Prop :=
  ∀ o s, (fn o s).Leaves (fun r => ∃ o', r = .complete o' s) (· = s)

theorem Fn.Computes.leavesMachine (h : fn.Computes) : fn.LeavesMachine := by
  obtain ⟨g, hg⟩ := h
  intro o s
  rw [hg]
  exact ⟨_, rfl⟩

theorem fnDivide_leavesMachine (f : Cfg → Word → Word → Int) : Fn.LeavesMachine (fnDivide f) := by
  intro o s
  unfold fnDivide
  split
  · rfl
  · exact ⟨_, rfl⟩

/-- Where the destination is a register, a function that leaves the machine alone makes the step write the PC
and that register. -/
theorem runInstr_set_touches {a : Operand} {rest : List (Role × Operand)} (hres : s.hasReserved)
    (hf : fn.LeavesMachine) (inputs : ∀ e ∈ rest, inputRole e.1 = true)
    (h : runInstr ((.set, a) :: rest) fn s = .next t) :
    EndsTouching (0 :: writtenBy a) [] .ready s t := by
  have start : QuietlyTouches (0 :: writtenBy a) [] s s.advanced := QuietlyTouches.advanced (by simp)
  refine runInstr_endsTouching hres (by simp) h fun o off _ => (hf o s.advanced).mono ?_ ?_
  · rintro _ ⟨o', rfl⟩
    refine ⟨o', _, rfl, (writebackPass_set_leaves inputs off o' a).mono ?_ ?_⟩
    · rintro _ rfl
      exact start.assigned (List.subset_cons_self ..) _
    · rintro _ rfl
      exact start
  · rintro _ rfl
    exact start

/-- The instructions with a register destination but IN and POP leave the machine to pass 2. -/
theorem exec_set_leavesMachine {roles : List Role}
    (hroles : dispatchRoles (opcodeOf i).toNat = some roles)
    (family : roles = [.set, .get] ∨ roles = [.set, .get, .get] ∨ roles = [.set, .getRam] ∨
      roles = [.set, .ramOffset, .getRam]) (hopc : opcodeOf i ≠ 0x43) :
    ∃ rest fn, roles = .set :: rest ∧ (∀ r ∈ rest, inputRole r = true) ∧
      (∀ s, exec i s = runInstr (roles.zip i.operands) fn s) ∧ fn.LeavesMachine := by
  obtain ⟨rest, rfl, inputs⟩ : ∃ rest, roles = .set :: rest ∧ ∀ r ∈ rest, inputRole r = true := by
    rcases family with rfl | rfl | rfl | rfl <;> exact ⟨_, rfl, by decide⟩
  obtain ⟨fn, hexec, hb⟩ := exec_behaves_of_roles hroles
  refine ⟨rest, fn, rfl, inputs, hexec, ?_⟩
  cases hb with
  | computes _ hf => exact hf.leavesMachine
  | divides f _ => exact fnDivide_leavesMachine f
  | branches allInputs _ => cases allInputs .set (by simp)
  | pops a => simp at family
  | inputs a b => exact absurd rfl hopc

/-- Settles O46: the step touches the PC and the destination, and completes or faults. -/
theorem registerInstructionFrame : Obligations.RegisterInstructionFrame := by
  intro s t i roles a operands hres hroles family hopc hops h
  obtain ⟨rest, fn, rfl, inputs, hexec, hf⟩ := exec_set_leavesMachine hroles family hopc
  rw [hexec, hops] at h
  have ends := runInstr_set_touches hres hf (inputs_zip operands inputs) h
  obtain ⟨setup, environment, registers, records, memory⟩ := ends.frame
  exact ⟨setup, environment, fun x => memory x (by simp), registers, ends.status, records⟩

/-! Jumps and branches. -/

/-- A branch writes the PC or leaves the machine alone, and never faults. -/
theorem Fn.Branches.leaves (h : fn.Branches) (o : Slots) (s : State) (Q : State → Prop) :
    (fn o s).Leaves (fun r => ∃ u, r = .complete o u ∧ (u = s ∨ ∃ v, u = s.setReg 0 v)) Q := by
  obtain ⟨taken, hg⟩ := h
  rw [hg]
  split
  · refine (jumpTo_leaves o.a o Q).mono ?_ fun _ => id
    rintro _ rfl
    exact ⟨_, rfl, .inr ⟨_, rfl⟩⟩
  · exact ⟨_, rfl, .inl rfl⟩

theorem runInstr_branch_touches (hres : s.hasReserved) (hf : fn.Branches ∨ fn.LeavesMachine)
    (inputs : ∀ e ∈ ops, inputRole e.1 = true) (h : runInstr ops fn s = .next t) :
    EndsTouching [0] [] .ready s t := by
  have start : QuietlyTouches [0] [] s s.advanced := QuietlyTouches.advanced (by simp)
  have ends {o' : Slots} {off : Nat} {u : State} (touches : QuietlyTouches [0] [] s u) :
      (writebackPass 0 off o' ops u).Leaves (QuietlyTouches [0] [] s) (QuietlyTouches [0] [] s) := by
    rw [writebackPass_inputs 0 off inputs]
    exact touches
  refine runInstr_endsTouching hres (by simp) h fun o off _ => ?_
  rcases hf with hf | hf
  · refine (hf.leaves o s.advanced _).mono ?_ fun _ => id
    rintro _ ⟨u, rfl, rfl | ⟨v, rfl⟩⟩
    · exact ⟨_, _, rfl, ends start⟩
    · exact ⟨_, _, rfl, ends (start.setReg (by simp) v)⟩
  · refine (hf o s.advanced).mono ?_ ?_
    · rintro _ ⟨o', rfl⟩
      exact ⟨_, _, rfl, ends start⟩
    · rintro _ rfl
      exact start

/-- A step of the instructions of `BranchFrame` completes, halts or faults in a state whose PC alone was
touched. -/
theorem exec_branch_touches (hres : s.hasReserved)
    (family : i = .nop ∨ i = .hlt ∨ (∃ a, i = .jmp a) ∨
      (∃ roles, dispatchRoles (opcodeOf i).toNat = some roles ∧ opcodeOf i ≠ 0x44 ∧
        (roles = [.get, .get] ∨ roles = [.get, .get, .get]))) (h : exec i s = .next t) :
    ∃ st, EndsTouching [0] [] st s t := by
  have completes {ops : List (Role × Operand)} {fn : Fn} (hf : fn.Branches ∨ fn.LeavesMachine)
      (inputs : ∀ e ∈ ops, inputRole e.1 = true) (h : runInstr ops fn s = .next t) :
      ∃ st, EndsTouching [0] [] st s t := by
    exact ⟨.ready, runInstr_branch_touches hres hf inputs h⟩
  rcases family with rfl | rfl | ⟨a, rfl⟩ | ⟨roles, hroles, hopc, gets⟩
  · exact completes (.inl fnNothing_branches) (by simp) h
  · rw [exec_hlt, haltStep_eq s hres] at h
    cases h
    exact ⟨.halted, s.advanced, QuietlyTouches.advanced (by simp), .inl rfl⟩
  · exact completes (ops := [(.get, a)]) (.inl fnJump_branches) (by simp [inputRole]) h
  · have inputs : ∀ r ∈ roles, inputRole r = true := by rcases gets with rfl | rfl <;> decide
    obtain ⟨fn, hexec, hb⟩ := exec_behaves_of_roles hroles
    rw [hexec] at h
    refine completes ?_ (inputs_zip i.operands inputs) h
    cases hb with
    | computes _ hf => exact .inr hf.leavesMachine
    | divides f _ => exact .inr (fnDivide_leavesMachine f)
    | branches _ hf => exact .inl hf
    | outputs a b => exact absurd rfl hopc
    | pushes | calls | pops | returns | inputs => simp at gets

/-- Settles O47: the step touches the PC alone. -/
theorem branchFrame : Obligations.BranchFrame := by
  intro s t i hres family h
  obtain ⟨st, ends⟩ := exec_branch_touches hres family h
  obtain ⟨setup, environment, registers, records, memory⟩ := ends.frame
  exact ⟨setup, environment, fun x => memory x (by simp), registers, records⟩

/-! The stores. -/

/-- A store touches the PC and the word at the address that its operand and the latched offset give. -/
theorem runInstr_setRam_touches {a : Operand} {rest : List (Role × Operand)} {n : Nat}
    (hres : s.hasReserved) (hf : fn.LeavesMachine) (inputs : ∀ e ∈ rest, inputRole e.1 = true)
    (offset : (inputPass s.advanced 0 0 Slots.zero ((.setRam, a) :: rest)).Leaves (·.2 = n) fun _ => True)
    (h : runInstr ((.setRam, a) :: rest) fn s = .next t) :
    EndsTouching [0] [(s.advanced.value a).toNat + n] .ready s t := by
  have start : QuietlyTouches [0] [(s.advanced.value a).toNat + n] s s.advanced :=
    QuietlyTouches.advanced (by simp)
  refine runInstr_endsTouching hres (by simp) h fun o off hin => (hf o s.advanced).mono ?_ ?_
  · rintro _ ⟨o', rfl⟩
    rw [hin] at offset
    obtain rfl : off = n := offset
    refine ⟨o', _, rfl, (writebackPass_setRam_leaves inputs off o' a).mono ?_ ?_⟩
    · rintro _ rfl
      exact start.stored (by simp) _
    · rintro _ rfl
      exact start
  · rintro _ rfl
    exact start

/-- LSTR latches the word of operand 1 (R128). -/
theorem inputPass_lstr_offset (a b c : Operand) :
    (inputPass s 0 0 Slots.zero [(.setRam, a), (.ramOffset, b), (.get, c)]).Leaves
      (·.2 = (s.value b).toNat) fun _ => True := by
  have reads := (resolve_leaves (s := s) b).mono (Q' := fun _ => True) (fun _ => id) fun _ _ => trivial
  refine reads.bind ?_
  rintro _ rfl
  exact inputPass_offset [(.get, c)] _ _ _ (by simp)

/-- Settles O48: the step touches the PC and the word stored to. -/
theorem storeFrame : Obligations.StoreFrame := by
  intro s t a b c hres
  constructor
  · intro h
    have ends : EndsTouching [0] [(s.advanced.value a).toNat + 0] .ready s t := by
      rcases h with h | h
      · exact runInstr_setRam_touches hres fnCopyB_computes.leavesMachine inputs_get
          (inputPass_offset [(.setRam, a), (.get, b)] 0 0 _ (by simp)) h
      · exact runInstr_setRam_touches hres fnCopyB_computes.leavesMachine inputs_getRam
          (inputPass_offset [(.setRam, a), (.getRam, b)] 0 0 _ (by simp)) h
    obtain ⟨setup, environment, registers, records, memory⟩ := ends.frame
    exact ⟨setup, environment, registers, records, fun x hx => memory x (by simpa using hx)⟩
  · intro h
    have ends := runInstr_setRam_touches hres fnCopyC_computes.leavesMachine
      inputs_offset_get (inputPass_lstr_offset a b c) h
    obtain ⟨setup, environment, registers, records, memory⟩ := ends.frame
    exact ⟨setup, environment, registers, records, fun x hx => memory x (by simpa using hx)⟩

/-! The stack. -/

/-- The push of a step touches the SP and the word below it. -/
theorem push_advanced_touches (v : Word) (hres : s.hasReserved) (hw : s.sp.toNat < 2 ^ s.cfg.w.bits) :
    (push v s.advanced).Leaves (QuietlyTouches [0, 1] [s.sp.toNat - 1] s)
      (QuietlyTouches [0, 1] [s.sp.toNat - 1] s) := by
  have start : QuietlyTouches [0, 1] [s.sp.toNat - 1] s s.advanced := QuietlyTouches.advanced (by simp)
  rcases Nat.lt_or_ge s.hsb s.sp.toNat with above | boundary
  · rw [push_advanced v hres hw above]
    have decremented := start.setReg (i := 1) (by simp) ((s.sp.toNat : Int) - 1)
    refine (memWrite_leaves _ _).mono ?_ ?_
    · rintro _ rfl
      exact decremented.stored (by simp) v
    · rintro _ rfl
      exact decremented
  · rw [push_advanced_overflow hres v boundary]
    exact start

/-- The pop of a step touches the SP. -/
theorem pop_advanced_touches (hres : s.hasReserved) (h0 : 0 ∈ regs) (h1 : 1 ∈ regs) :
    (pop s.advanced).Leaves (fun r => QuietlyTouches regs [] s r.2) (QuietlyTouches regs [] s) := by
  have start : QuietlyTouches regs [] s s.advanced := QuietlyTouches.advanced h0
  refine (pop_leaves (State.hasReserved_advanced hres)).mono ?_ ?_
  · rintro ⟨v, u⟩ rfl
    exact start.setReg h1 _
  · rintro _ rfl
    exact start

theorem exec_push_touches {a : Operand} (hres : s.hasReserved) (hw : s.sp.toNat < 2 ^ s.cfg.w.bits)
    (h : exec (.psh a) s = .next t ∨ exec (.cal a) s = .next t) :
    EndsTouching [0, 1] [s.sp.toNat - 1] .ready s t := by
  rcases h with h | h
  · refine runInstr_endsTouching hres (by simp) h fun o off _ => ?_
    exact (push_advanced_touches o.a hres hw).bind fun u touches => ⟨o, u, rfl, touches⟩
  · refine runInstr_endsTouching hres (by simp) h fun o off _ => ?_
    rw [fnCall_advanced hres]
    refine (push_advanced_touches _ hres hw).bind fun u touches => (jumpTo_leaves _ _ _).mono ?_ fun _ => id
    rintro _ rfl
    exact ⟨o, _, rfl, touches.setReg (by simp) _⟩

theorem exec_pop_touches {a : Operand} (hres : s.hasReserved) (h : exec (.pop a) s = .next t) :
    EndsTouching (0 :: 1 :: writtenBy a) [] .ready s t := by
  refine runInstr_endsTouching hres (by simp) h fun o off _ => ?_
  refine (pop_advanced_touches hres (by simp) (by simp)).bind fun r touches => ⟨_, r.2, rfl, ?_⟩
  refine (writebackPass_set_leaves (by simp) off _ a).mono ?_ ?_
  · rintro _ rfl
    exact touches.assigned (fun x hx => by simp [hx]) _
  · rintro _ rfl
    exact touches

theorem exec_ret_touches (hres : s.hasReserved) (h : exec .ret s = .next t) :
    EndsTouching [0, 1] [] .ready s t := by
  refine runInstr_endsTouching hres (by simp) h fun o off _ => ?_
  refine (pop_advanced_touches hres (by simp) (by simp)).bind fun r touches =>
    (jumpTo_leaves _ _ _).mono ?_ fun _ => id
  rintro _ rfl
  exact ⟨o, _, rfl, touches.setReg (by simp) _⟩

/-- Settles O49: a push touches the SP and the word below it, a pop the SP, and pass 2 POP's destination. -/
theorem stackFrame : Obligations.StackFrame := by
  intro s t a hres hw
  refine ⟨fun h => ?_, fun h => ?_, fun h => ?_⟩
  · have ends := exec_push_touches hres hw h
    obtain ⟨setup, environment, registers, records, memory⟩ := ends.frame
    exact ⟨setup, environment, registers, records, fun x hx => memory x (by simpa using hx)⟩
  · have ends := exec_pop_touches hres h
    obtain ⟨setup, environment, registers, records, memory⟩ := ends.frame
    exact ⟨setup, environment, fun x => memory x (by simp), registers, records⟩
  · have ends := exec_ret_touches hres h
    obtain ⟨setup, environment, registers, records, memory⟩ := ends.frame
    exact ⟨setup, environment, fun x => memory x (by simp), registers, records⟩

end Sys2Proof.Machine
end

section
/-! PROOFS. The frame of IN and OUT, whose port calls add to the environment's records (45_io.md), and of
every step that ends in a fault (R323, R324). -/

namespace Sys2Proof.Machine

variable {s t : State} {regs : List Nat}

theorem portIn_output (port : Word) (s : State) : (portIn port s).2.output = s.output := by
  rcases portIn_cases s port with ⟨_, he⟩ | ⟨_, _, _, _, _, he⟩ | ⟨_, _, _, he⟩ <;> rw [he] <;> rfl

theorem portOut_oracle (port value : Word) (s : State) : (portOut port value s).oracle = s.oracle := by
  rcases portOut_cases s port value with ⟨_, he⟩ | ⟨_, _, he⟩ <;> rw [he] <;> rfl

/-- Only a bound port is pending, and it warns of nothing (R292). -/
theorem portIn_pending_diagnostics {port : Word} (h : portIn port s = (.pending, t)) :
    t.diagnostics = s.diagnostics := by
  rcases portIn_cases s port with ⟨_, he⟩ | ⟨_, _, _, _, _, he⟩ | ⟨_, _, _, he⟩ <;>
    rw [he, Prod.mk.injEq] at h
  · cases h.1
  all_goals
    rw [← h.2]
    rfl

/-! IN. -/

/-- The machine IN completes or faults in: the PC and the destination touched, no output (R294, R298). -/
def InTouches (a : Operand) (s u : State) : Prop :=
  Touches (0 :: writtenBy a) [] s u ∧ u.output = s.output

/-- The machine IN suspends: the PC alone touched, no output and no warning (R296). -/
def InSuspends (s u : State) : Prop :=
  Touches [0] [] s u ∧ u.output = s.output ∧ u.diagnostics = s.diagnostics

/-- IN ended completed or suspended. -/
def InEnds (a : Operand) (s t : State) : Prop :=
  (∃ u, InTouches a s u ∧ t = u.completed) ∨ ∃ u, InSuspends s u ∧ t = suspend s.pc a u

/-- The ways IN ends: completed or suspended, or faulted on its operands. -/
theorem exec_in_cases {a b : Operand} (hres : s.hasReserved) (h : exec (.inPort a b) s = .next t) :
    InEnds a s t ∨ ∃ c i u, InTouches a s u ∧ t = s.faultedAs c i u := by
  have received (port : Word) : InTouches a s (portIn port s.advanced).2 :=
    ⟨(Touches.advanced (by simp)).portIn port, portIn_output port s.advanced⟩
  refine runInstr_leaves (ops := [(.set, a), (.get, b)]) (fn := fnIn) hres h
    ⟨Touches.advanced (by simp), rfl⟩ fun o off _ => ?_
  have completes (o' : Slots) {u : State} (hu : InTouches a s u) :
      (afterFn s.pc off [(.set, a), (.get, b)] (.complete o' u)).Leaves (InEnds a s) (InTouches a s) := by
    obtain ⟨touches, output⟩ := hu
    refine Res.Leaves.bind (P := InTouches a s) ?_ fun v hv => .inl ⟨v, hv, rfl⟩
    refine (writebackPass_set_leaves inputs_get off o' a).mono ?_ ?_
    · rintro _ rfl
      exact ⟨touches.assigned (List.subset_cons_self ..) _, by rw [State.assigned_output, output]⟩
    · rintro _ rfl
      exact ⟨touches, output⟩
  have touches := received o.b
  cases he : portIn o.b s.advanced with
  | mk answer u =>
    rw [he] at touches
    cases answer with
    | value v => rw [fnIn_value he]; exact completes _ touches
    | unbound => rw [fnIn_unbound he]; exact completes _ touches
    | pending =>
      rw [fnIn_pending he]
      refine .inr ⟨u, ⟨?_, touches.2, portIn_pending_diagnostics (s := s.advanced) he⟩, rfl⟩
      have alone := (Touches.advanced (s := s) (regs := [0]) (addrs := []) (by simp)).portIn o.b
      rwa [he] at alone

/-! OUT. -/

theorem exec_out_cases {a b : Operand} (hres : s.hasReserved) (h : exec (.outPort a b) s = .next t) :
    ∃ u, (Touches [0] [] s u ∧ u.oracle = s.oracle) ∧
      (t = u.completed ∨ ∃ c i, t = s.faultedAs c i u) := by
  have start : Touches [0] [] s s.advanced := Touches.advanced (by simp)
  have ends := runInstr_leaves (ops := [(.get, a), (.get, b)]) (fn := fnOut)
    (R := fun u => Touches [0] [] s u ∧ u.oracle = s.oracle)
    (Q := fun t => ∃ u, (Touches [0] [] s u ∧ u.oracle = s.oracle) ∧ t = u.completed)
    hres h ⟨start, rfl⟩ fun o off _ =>
      ⟨_, ⟨start.portOut o.a o.b, portOut_oracle o.a o.b s.advanced⟩, rfl⟩
  rcases ends with ⟨u, touches, ends⟩ | ⟨c, i, u, touches, ends⟩
  · exact ⟨u, touches, .inl ends⟩
  · exact ⟨u, touches, .inr ⟨c, i, ends⟩⟩

/-- Settles O50: each of the ways the two instructions end touches what its machine does. -/
theorem inOutFrame : Obligations.InOutFrame := by
  intro s t a b hres
  constructor
  · intro h
    rcases exec_in_cases hres h with
      (⟨u, ⟨touches, output⟩, rfl⟩ | ⟨u, ⟨touches, output, diagnostics⟩, rfl⟩) |
      ⟨c, i, u, ⟨touches, output⟩, rfl⟩
    · exact ⟨touches.setup, fun x => touches.memory x (by simp), touches.registers, output,
        fun _ => touches.fault, fun _ => touches.pending, nofun⟩
    · obtain ⟨length, others⟩ := touches.registers
      exact ⟨touches.setup, fun x => touches.memory x (by simp),
        ⟨length, fun x hx => others x fun h0 => hx (by simp_all)⟩, output,
        fun _ => touches.fault, nofun, fun _ => ⟨⟨length, others⟩, diagnostics⟩⟩
    · exact ⟨touches.setup, fun x => touches.memory x (by simp), touches.registers, output,
        fun notFaulted => absurd rfl notFaulted, nofun, nofun⟩
  · intro h
    obtain ⟨u, ⟨touches, oracle⟩, rfl | ⟨c, i, rfl⟩⟩ := exec_out_cases hres h
    · exact ⟨touches.setup, fun x => touches.memory x (by simp), touches.registers, oracle,
        fun _ => ⟨touches.pending, touches.fault⟩⟩
    · exact ⟨touches.setup, fun x => touches.memory x (by simp), touches.registers, oracle,
        fun notFaulted => absurd rfl notFaulted⟩

/-! Faults. -/

/-- What a fault can find done: the PC advanced, and at most the SP and the environment's records touched
(R323). -/
def FaultsIn (s u : State) : Prop := Touches [0, 1] [] s u ∧ u.pc = s.advanced.pc

theorem FaultsIn.advanced (s : State) : FaultsIn s s.advanced := ⟨Touches.advanced (by simp), rfl⟩

theorem FaultsIn.setSp (h : FaultsIn s t) (v : Int) : FaultsIn s (t.setReg 1 v) :=
  ⟨h.1.setReg (by simp) v, (State.regAt_setReg_other _ _ _ _ (by decide)).trans h.2⟩

theorem FaultsIn.portIn (h : FaultsIn s t) (port : Word) : FaultsIn s (portIn port t).2 := by
  refine ⟨h.1.portIn port, Eq.trans ?_ h.2⟩
  rcases portIn_cases t port with ⟨_, he⟩ | ⟨_, _, _, _, _, he⟩ | ⟨_, _, _, he⟩ <;> rw [he] <;> rfl

theorem push_faultsIn (v : Word) (hres : s.hasReserved) :
    (push v s.advanced).Leaves (fun _ => True) (FaultsIn s) := by
  refine (push_leaves v (State.hasReserved_advanced hres)).mono (fun _ _ => trivial) ?_
  rintro _ (rfl | rfl)
  · exact FaultsIn.advanced s
  · exact (FaultsIn.advanced s).setSp _

theorem pop_faultsIn (hres : s.hasReserved) :
    (pop s.advanced).Leaves (fun r => FaultsIn s r.2) (FaultsIn s) := by
  refine (pop_leaves (State.hasReserved_advanced hres)).mono ?_ ?_
  · rintro ⟨v, u⟩ rfl
    exact (FaultsIn.advanced s).setSp _
  · rintro _ rfl
    exact FaultsIn.advanced s

/-- Pass 2 over input operands alone does not fault, so that the machine it is given does not matter. -/
theorem afterFn_inputs_notFaulted {ops : List (Role × Operand)} (cur : Word) (off : Nat)
    (inputs : ∀ e ∈ ops, inputRole e.1 = true) (o : Slots) (u : State) (Q : State → Prop) :
    (afterFn cur off ops (.complete o u)).Leaves (·.status ≠ .faulted) Q := by
  rw [afterFn, writebackPass_inputs 0 off inputs]
  exact nofun

/-- Pass 2 with its one output operand faults in the machine it is given. -/
theorem afterFn_output_faultsIn {rest : List (Role × Operand)} (cur : Word) (off : Nat)
    (inputs : ∀ e ∈ rest, inputRole e.1 = true) (r : Role) (x : Operand) (o : Slots) {u : State}
    (hu : FaultsIn s u) :
    (afterFn cur off ((r, x) :: rest) (.complete o u)).Leaves (·.status ≠ .faulted) (FaultsIn s) := by
  refine Res.Leaves.bind (P := fun _ => True)
    ((writebackPass_raises inputs off o x r).mono (fun _ => id) ?_) fun _ _ => nofun
  rintro _ rfl
  exact hu

/-- As `afterFn_output_faultsIn`, over a role list. -/
theorem afterFn_roles_faultsIn {rest : List Role} (cur : Word) (off : Nat)
    (inputs : ∀ x ∈ rest, inputRole x = true) (r : Role) (operands : List Operand) (o : Slots) {u : State}
    (hu : FaultsIn s u) :
    (afterFn cur off ((r :: rest).zip operands) (.complete o u)).Leaves (·.status ≠ .faulted)
      (FaultsIn s) := by
  cases operands with
  | nil => exact afterFn_inputs_notFaulted cur off (by simp) o u _
  | cons x xs => exact afterFn_output_faultsIn cur off (inputs_zip xs inputs) r x o hu

/-- Whatever the instruction, its function and pass 2 fault only where memory and the registers but PC and SP
are untouched: no output operand is written before another one faults. -/
theorem Behaves.faultsIn {i : Instr} {roles : List Role} {fn : Fn} (hb : Behaves i roles fn)
    (hres : s.hasReserved) (o : Slots) (off : Nat) :
    ((fn o s.advanced).bind (afterFn s.pc off (roles.zip i.operands))).Leaves
      (·.status ≠ .faulted) (FaultsIn s) := by
  have start := FaultsIn.advanced s
  cases hb with
  | computes inputs hf =>
    obtain ⟨g, hg⟩ := hf
    rw [hg, Res.bind_ok]
    exact afterFn_roles_faultsIn _ _ inputs _ _ _ start
  | divides f _ =>
    refine (fnDivide_leavesMachine f o s.advanced).mono (fun _ => id) ?_ |>.bind ?_
    · rintro _ rfl
      exact start
    · rintro _ ⟨o', rfl⟩
      exact afterFn_roles_faultsIn _ _ (by decide) _ _ _ start
  | branches inputs hf =>
    refine (hf.leaves o s.advanced _).bind ?_
    rintro _ ⟨u, rfl, -⟩
    exact afterFn_inputs_notFaulted _ _ (inputs_zip _ inputs) _ _ _
  | pushes a =>
    refine Res.Leaves.bind (P := fun r => ∃ u, r = .complete o u) ?_ ?_
    · exact (push_faultsIn o.a hres).bind fun u _ => ⟨u, rfl⟩
    · rintro _ ⟨u, rfl⟩
      exact afterFn_inputs_notFaulted _ _ (inputs_zip _ (by decide)) _ _ _
  | calls a =>
    refine Res.Leaves.bind (P := fun r => ∃ u, r = .complete o u) ?_ ?_
    · rw [fnCall_advanced hres]
      exact (push_faultsIn _ hres).bind fun u _ =>
        (jumpTo_leaves _ _ _).mono (fun _ h => ⟨_, h⟩) fun _ => id
    · rintro _ ⟨u, rfl⟩
      exact afterFn_inputs_notFaulted _ _ (inputs_zip _ (by decide)) _ _ _
  | pops a =>
    refine Res.Leaves.bind (P := fun r => ∃ o' u, r = .complete o' u ∧ FaultsIn s u) ?_ ?_
    · exact (pop_faultsIn hres).bind fun r hr => ⟨_, r.2, rfl, hr⟩
    · rintro _ ⟨o', u, rfl, hu⟩
      exact afterFn_roles_faultsIn _ _ (by decide) _ _ _ hu
  | returns =>
    refine Res.Leaves.bind (P := fun r => ∃ u, r = .complete o u) ?_ ?_
    · exact (pop_faultsIn hres).bind fun r _ =>
        (jumpTo_leaves _ _ _).mono (fun _ h => ⟨_, h⟩) fun _ => id
    · rintro _ ⟨u, rfl⟩
      exact afterFn_inputs_notFaulted _ _ (by simp) _ _ _
  | inputs a b =>
    have received := start.portIn o.b
    cases he : Machine.portIn o.b s.advanced with
    | mk answer u =>
      rw [he] at received
      cases answer with
      | value v =>
        rw [fnIn_value he, Res.bind_ok]
        exact afterFn_roles_faultsIn _ _ (by decide) _ _ _ received
      | unbound =>
        rw [fnIn_unbound he, Res.bind_ok]
        exact afterFn_roles_faultsIn _ _ (by decide) _ _ _ received
      | pending => rw [fnIn_pending he]; exact nofun
  | outputs a b =>
    rw [fnOut, Res.bind_ok]
    exact afterFn_inputs_notFaulted _ _ (inputs_zip (roles := [.get, .get]) _ (by decide)) _ _ _

/-- An instruction that faults does so in a state where only the PC and the SP can differ. -/
theorem exec_faultsIn {i : Instr} (hres : s.hasReserved) (h : exec i s = .next t)
    (faulted : t.status = .faulted) : ∃ c info u, FaultsIn s u ∧ t = s.faultedAs c info u := by
  by_cases isHlt : i = .hlt
  · subst isHlt
    rw [exec_hlt, haltStep_eq s hres] at h
    cases h
    cases faulted
  · obtain ⟨roles, fn, -, hexec, hb⟩ := exec_behaves i isHlt
    rw [hexec] at h
    rcases runInstr_leaves hres h (FaultsIn.advanced s) fun o off _ => hb.faultsIn hres o off with
      notFaulted | faults
    · exact absurd faulted notFaulted
    · exact faults

theorem step_faultsIn (hres : s.hasReserved) (h : step s = .next t) (faulted : t.status = .faulted) :
    ∃ c info u, FaultsIn s u ∧ t = s.faultedAs c info u := by
  have hs := State.steppable_of_step_next h
  rw [step, if_pos hs] at h
  cases hf : fetch s with
  | pastEnd =>
    rw [hf, haltStep_eq s hres] at h
    cases h
    cases faulted
  | instr i =>
    rw [hf] at h
    exact exec_faultsIn hres h faulted
  | unknown =>
    rw [hf, unknownOpcodeStep_eq s hres] at h
    cases h
    exact ⟨_, _, _, FaultsIn.advanced s, rfl⟩
  | malformed => rw [hf] at h; cases h
  | stuck f => rw [hf] at h; cases h

/-- Settles O45: taking the fault adds its record to a state where only the PC and the SP can differ. -/
theorem faultingStepKeepsMemory : Obligations.FaultingStepKeepsMemory := by
  intro s t hres h faulted
  obtain ⟨c, info, u, ⟨touches, pc⟩, rfl⟩ := step_faultsIn hres h faulted
  exact ⟨touches.setup, fun x => touches.memory x (by simp), touches.registers, pc⟩

end Sys2Proof.Machine
end

section
/-! PROOFS. How an accepted program is packed and what its headers declare (R91, R351 to R354). -/

namespace Sys2Proof

/-! Packing at load (R91, R95). -/

variable {opc : BitVec 8} {ops : List Operand}

theorem operandCount_known {n : Nat} (h : operandCount opc.toNat = some n) : opc.toNat < 0x45 := by
  by_contra unknown
  rw [operandCount_unknown _ (by omega)] at h
  cases h

/-- A record packed with as many operands as its opcode takes decodes to those operands. -/
theorem decode_packRecord (h : operandCount opc.toNat = some ops.length) :
    ∃ i, decode (packRecord opc ops) = .ok i ∧ i.operands = ops := by
  have known := operandCount_known h
  rw [← fieldOpc_packRecord opc ops] at known h
  obtain ⟨i, unused, hdecode, hunused, code, hops⟩ := decode_eq_checked _ known
  rw [code, operandCount_opcodeOf, Option.some_inj] at h
  have atMost := i.operands_length_le
  refine ⟨i, ?_, ?_⟩
  · rw [hdecode, checked_eq_ok]
    refine ⟨fieldRsv_packRecord opc ops, List.all_eq_true.mpr fun j hj => ?_, rfl⟩
    rw [hunused, mem_unused_iff] at hj
    rw [slotUnused_iff, operandAt_packRecord opc ops j hj.2, List.getElem?_eq_none (by omega)]
    rfl
  · refine List.ext_getElem h fun j hj hj' => ?_
    have slot := operandAt_packRecord opc ops j (by omega)
    rw [List.getElem?_eq_getElem hj', Option.getD_some] at slot
    rw [← slot]
    have mapped : i.operands[j]? = some (operandAt (packRecord opc ops) j) := by
      rw [hops]; simp [hj]
    exact (List.getElem?_eq_some_iff.mp mapped).2

namespace Machine

/-- The operands an item given as kinds and values is packed with. -/
def fieldOperands (ks : List (BitVec 2)) (vs : List Nat) : List Operand :=
  (ks.zip vs).map fun kv => ⟨Kind.ofCode kv.1, BitVec.ofNat 32 kv.2⟩

variable {ks : List (BitVec 2)} {vs : List Nat} {m nreg n : Nat}

theorem pack_fields (opc : BitVec 8) (ks : List (BitVec 2)) (vs : List Nat) :
    (CodeItem.fields opc ks vs).pack = packRecord opc (fieldOperands ks vs) := rfl

theorem length_fieldOperands (hk : ks.length = n) (hv : vs.length = n) :
    (fieldOperands ks vs).length = n := by
  simp [fieldOperands, hk, hv]

/-- An accepted item decodes, once packed, to its own operands. -/
theorem decode_pack_fields (hn : operandCount opc.toNat = some n)
    (ok : codeItemOk m nreg (.fields opc ks vs) = true) :
    ∃ i, decode (CodeItem.fields opc ks vs).pack = .ok i ∧ i.operands = fieldOperands ks vs ∧
      (fieldOperands ks vs).length = n := by
  obtain ⟨hk, hv, -⟩ := (codeItemOk_fields_known m nreg opc ks vs n hn).mp ok
  have length := length_fieldOperands hk hv
  obtain ⟨i, hdecode, hops⟩ := decode_packRecord (ops := fieldOperands ks vs) (length ▸ hn)
  exact ⟨i, hdecode, hops, length⟩

/-- Truncating a value to its field keeps it within the limits it passed (R97, R98). -/
theorem wellFormed_of_raw {kind : BitVec 2} {value : Nat} (himm : kind = 0 → value ≤ m)
    (hreg : kind = 1 → value < nreg) :
    Operand.wellFormed m nreg ⟨Kind.ofCode kind, BitVec.ofNat 32 value⟩ = true := by
  have smaller : (BitVec.ofNat 32 value).toNat ≤ value := by
    rw [BitVec.toNat_ofNat]; exact Nat.mod_le _ _
  rcases kindCode_cases kind with rfl | rfl | rfl | rfl
  · exact decide_eq_true (smaller.trans (himm rfl))
  · exact decide_eq_true (smaller.trans_lt (hreg rfl))
  · rfl
  · rfl

/-- A packed item of an accepted program passes the check of packed records (R354). -/
theorem packedOk_pack {item : CodeItem} (ok : codeItemOk m nreg item = true) :
    packedOk m nreg item.pack = true := by
  cases item with
  | packed w => exact ok
  | fields opc ks vs =>
    cases hn : operandCount opc.toNat with
    | none =>
      have unknown : 0x45 ≤ fieldOpc (CodeItem.fields opc ks vs).pack := by
        rw [pack_fields, fieldOpc_packRecord]
        by_contra known
        obtain ⟨i, -, -, -, code, -⟩ :=
          decode_eq_checked (packRecord opc []) (by rw [fieldOpc_packRecord]; omega)
        rw [fieldOpc_packRecord] at code
        rw [code, operandCount_opcodeOf] at hn
        cases hn
      exact (packedOk_error m nreg (decode_unknownOpcode _ unknown)).mpr rfl
    | some n =>
      obtain ⟨-, -, limits⟩ := (codeItemOk_fields_known m nreg opc ks vs n hn).mp ok
      obtain ⟨i, hdecode, hops, -⟩ := decode_pack_fields hn ok
      rw [packedOk_ok m nreg hdecode, Instr.wellFormed, hops, fieldOperands, List.all_map,
        List.all_eq_true]
      exact fun kv hkv => wellFormed_of_raw (limits kv hkv).1 (limits kv hkv).2

/-! What the checks accept (R351 to R354). -/

theorem checkHeaders_eq_ok {h : Headers} {d : Declared} (ok : checkHeaders h = .ok d) :
    h.bits = some d.bits ∧ h.minheap = some d.heap ∧ h.minstack = some d.stack ∧
      h.minreg = some d.minreg ∧ h.run = some .rom := by
  unfold checkHeaders at ok
  split at ok
  case h_1 bits heap stack minreg run =>
    split at ok
    case isTrue rom =>
      cases ok
      exact ⟨bits, heap, stack, minreg, rom ▸ run⟩
    case isFalse => cases ok
  case h_2 => cases ok

/-- The configuration registers that the checked sizes give (R6, R40, R353). -/
structure Cfg.Declares (cfg : Cfg) (d : Declared) (slen plen : Nat) : Prop where
  bits_low : 1 ≤ d.bits
  bits_high : d.bits ≤ 32
  width : cfg.w = widthFor d.bits
  coherent : cfg.Coherent
  nreg : cfg.nreg.toNat = d.minreg + 2
  heap : cfg.heap.toNat = d.heap
  stack : cfg.stack.toNat = d.stack
  slen : cfg.slen.toNat = slen
  plen : cfg.plen = plen

theorem widthFor_ne_unset (b : Nat) : widthFor b ≠ .unset := by
  unfold widthFor
  split_ifs <;> simp

theorem checkSizes_eq_ok {d : Declared} {slen plen : Nat} {cfg : Cfg}
    (ok : checkSizes d slen plen = .ok cfg) : cfg.Declares d slen plen := by
  unfold checkSizes at ok
  dsimp only at ok
  split at ok
  case isTrue => cases ok
  split at ok
  case isTrue => cases ok
  split at ok
  case isTrue => cases ok
  case isFalse range registers memory =>
    have bits := Width.two_pow_bits_le (widthFor d.bits)
    have half : 2 ^ ((widthFor d.bits).bits - 1) ≤ 2 ^ (widthFor d.bits).bits :=
      Nat.pow_le_pow_right (by decide) (Nat.sub_le _ _)
    have positive := Nat.two_pow_pos (widthFor d.bits).bits
    have max : (widthFor d.bits).maxValue = 2 ^ (widthFor d.bits).bits - 1 := rfl
    have sign : (widthFor d.bits).signBit = 2 ^ ((widthFor d.bits).bits - 1) := rfl
    have signedMax : (widthFor d.bits).maxSigned = 2 ^ ((widthFor d.bits).bits - 1) - 1 := rfl
    have strict := Nat.pow_lt_pow_right (a := 2) (by decide)
      (Nat.sub_lt (Width.bits_pos (widthFor_ne_unset d.bits)) Nat.one_pos)
    have fits {x : Nat} (hx : x < 2 ^ (widthFor d.bits).bits) : (BitVec.ofNat 32 x).toNat = x := by
      rw [BitVec.toNat_ofNat]; exact Nat.mod_eq_of_lt (by omega)
    have m := fits (x := (widthFor d.bits).maxValue) (by omega)
    have nreg := fits (x := d.minreg + 2) (by omega)
    have slenFits := fits (x := slen) (by omega)
    have heap := fits (x := d.heap) (by omega)
    have stack := fits (x := d.stack) (by omega)
    have msize := fits (x := slen + d.heap + d.stack) (by omega)
    have hsb := fits (x := slen + d.heap) (by omega)
    cases ok
    refine ⟨by omega, by omega, rfl, ⟨widthFor_ne_unset _, m, fits strict, fits (by omega), ?_, ?_, ?_, ?_,
      ?_⟩, nreg, heap, stack, slenFits, rfl⟩
    all_goals
      dsimp only
      omega

/-- An accepted program: its declared sizes, and its items checked against them. -/
theorem checkProgram_eq_ok {p : Program} {cfg : Cfg} (ok : checkProgram p = .ok cfg) :
    ∃ d, checkHeaders p.headers = .ok d ∧ cfg.Declares d p.static.length p.code.length ∧
      ∀ item ∈ p.code, codeItemOk cfg.m.toNat cfg.nreg.toNat item = true := by
  cases headers : checkHeaders p.headers with
  | error e => rw [checkProgram_headersFail p e headers] at ok; cases ok
  | ok d =>
    cases sizes : checkSizes d p.static.length p.code.length with
    | error e => rw [checkProgram_sizesFail p d headers e sizes] at ok; cases ok
    | ok cfg' =>
      rw [checkProgram_sizesPass p d headers cfg' sizes] at ok
      split at ok
      case isTrue items =>
        cases ok
        exact ⟨d, rfl, checkSizes_eq_ok sizes, List.all_eq_true.mp items⟩
      case isFalse => cases ok

end Machine
end Sys2Proof
end

section
/-! PROOFS. What a successful and a failed load leave, and the invariant after every host call (R291, R297, R355
to R357). -/

namespace Sys2Proof.Machine

variable {s : State} {p : Program} {cfg : Cfg}

/-! A failed load (R356). -/

theorem checkHeaders_error_ne_none {h : Headers} {e : LoadErr} (fails : checkHeaders h = .error e) :
    e ≠ .none := by
  unfold checkHeaders at fails
  split at fails
  · split at fails <;> cases fails
    exact nofun
  · cases fails
    exact nofun

theorem checkSizes_error_ne_none {d : Declared} {slen plen : Nat} {e : LoadErr}
    (fails : checkSizes d slen plen = .error e) : e ≠ .none := by
  unfold checkSizes at fails
  dsimp only at fails
  split_ifs at fails <;> cases fails <;> exact nofun

theorem checkProgram_error_ne_none {e : LoadErr} (fails : checkProgram p = .error e) : e ≠ .none := by
  cases headers : checkHeaders p.headers with
  | error e' =>
    rw [checkProgram_headersFail p e' headers] at fails
    cases fails
    exact checkHeaders_error_ne_none headers
  | ok d =>
    cases sizes : checkSizes d p.static.length p.code.length with
    | error e' =>
      rw [checkProgram_sizesFail p d headers e' sizes] at fails
      cases fails
      exact checkSizes_error_ne_none sizes
    | ok cfg =>
      rw [checkProgram_sizesPass p d headers cfg sizes] at fails
      split at fails <;> cases fails
      exact nofun

/-- Settles O54: only a failed check leaves UNLOADED, and it discards every part of the machine. -/
theorem failedLoadDiscardsMachine : Obligations.FailedLoadDiscardsMachine := by
  intro p s unloaded
  cases h : checkProgram p with
  | ok cfg =>
    rw [(hostLoad_accepts h s).2] at unloaded
    cases unloaded
  | error e =>
    rw [hostLoad_of_error h]
    exact ⟨checkProgram_error_ne_none h, rfl, rfl, rfl, rfl, rfl, rfl, rfl, step_refused _ nofun⟩

/-! Initialisation (R355). -/

theorem Cfg.Coherent.msize_lt (h : cfg.Coherent) : cfg.msize.toNat < 2 ^ cfg.w.bits := by
  have max := h.maxValue
  have within := h.addresses
  have positive := Nat.two_pow_pos cfg.w.bits
  omega

/-- What initialisation needs of a configuration and a checked program store to meet the invariant. -/
theorem reinitialise_inv (coherent : s.cfg.Coherent) (plen : s.cfg.plen = s.prog.code.length)
    (slen : s.cfg.slen.toNat = s.prog.static.length)
    (records : ∀ w ∈ s.prog.code, packedOk s.cfg.m.toNat s.cfg.nreg.toNat w = true)
    (loadErr : s.loadErr = .none) : (reinitialise s).Inv where
  configured _ := ⟨coherent, plen, slen⟩
  discarded := nofun
  fileLength := by
    have reserved := coherent.reserved
    simp only [reinitialise, List.length_cons, List.length_replicate]
    omega
  regWords v hv := by
    have positive := Nat.two_pow_pos s.cfg.w.bits
    simp only [reinitialise, List.mem_cons, List.mem_replicate] at hv
    rcases hv with rfl | rfl | ⟨-, rfl⟩
    · exact positive
    · exact coherent.msize_lt
    · exact positive
  memCanonical := reinitialise_mem_wf s
  memWords c hc := by
    obtain ⟨-, below, -, x, -, word⟩ := Memory.mem_preload _ _ _ c hc
    have size := coherent.memory
    refine ⟨?_, word ▸ trunc_lt _ _⟩
    change c.1 < s.cfg.msize.toNat
    omega
  programChecked := records
  pendingStatus := by simp [reinitialise]
  pendingTarget := nofun
  faultStatus := by simp [reinitialise, FaultRecord.none]
  faultSnapshot := nofun
  loadErrCleared _ := loadErr

theorem hostLoad_inv (p : Program) (s : State) : (hostLoad p s).Inv := by
  cases h : checkProgram p with
  | error e =>
    rw [hostLoad_of_error h]
    exact State.inv_of_discarded rfl rfl rfl rfl rfl rfl rfl
  | ok cfg =>
    rw [hostLoad_of_ok h]
    obtain ⟨d, -, declares, items⟩ := checkProgram_eq_ok h
    refine reinitialise_inv declares.coherent ?_ declares.slen ?_ rfl
    · exact declares.plen.trans (List.length_map ..).symm
    · intro w hw
      obtain ⟨item, hitem, rfl⟩ := List.mem_map.mp hw
      exact packedOk_pack (items item hitem)

/-- The output history is no part of the invariant. -/
theorem State.Inv.withOutput (inv : s.Inv) (events : List OutputEvent) :
    ({ s with output := events } : State).Inv := { inv with }

theorem hostReset_inv (inv : s.Inv) : (hostReset s).Inv := by
  by_cases h : s.status = .unloaded
  · rw [hostReset_unloaded s h]
    exact inv.withOutput _
  · rw [hostReset_loaded s h]
    obtain ⟨coherent, plen, slen⟩ := inv.configured h
    exact (reinitialise_inv coherent plen slen inv.programChecked (inv.loadErrCleared h)).withOutput _

/-- The port registry is no part of the invariant. -/
theorem registerDevice_inv (d : Device) (inv : s.Inv) : (registerDevice d s).Inv := { inv with }

/-- A resume writes the recorded destination, a register of the file if it is one, or faults on its kind. -/
theorem finishPendingInput_inv (v : Nat) (inv : s.Inv) : ∃ t, finishPendingInput v s = .next t ∧ t.Inv := by
  cases pending : s.pending.valid with
  | false => exact ⟨s, finishPendingInput_ignored s v pending, inv⟩
  | true =>
    have awaiting : s.status = .awaitingInput := inv.pendingStatus.mp pending
    have loaded : s.status ≠ .unloaded := by simp [awaiting]
    have notFaulted : s.status ≠ .faulted := by simp [awaiting]
    rw [finishPendingInput_pending s v pending]
    rcases writeTarget_cases s ⟨s.pending.kind, s.pending.value⟩ v with
      ⟨-, written⟩ | ⟨-, faults⟩ | ⟨isReg, outside, -⟩
    · have evolves := Evolves.assigned s ⟨s.pending.kind, s.pending.value⟩ v
      have kept := evolves.inv inv notFaulted
      rw [written]
      refine ⟨_, rfl, kept.settled ?_ (kept.fault_none ?_) _ rfl .ready (.inl rfl)⟩
      · rwa [evolves.status]
      · rwa [evolves.status]
    · rw [faults]
      exact ⟨_, rfl, inv.raised loaded .badOperandKind nofun _ _⟩
    · have inFile := inv.pendingTarget pending isReg
      rw [← inv.fileLength] at inFile
      exact absurd inFile (Nat.not_lt.mpr outside)

/-- Settles O58: one lemma per host call. -/
theorem hostCallsKeepInvariant : Obligations.HostCallsKeepInvariant :=
  ⟨hostLoad_inv, fun _ => hostReset_inv, fun d _ => registerDevice_inv d,
    fun v _ => finishPendingInput_inv v⟩

/-! A successful load (R355). -/

/-- The stored record of an accepted item: a packed one itself, and any other a record of its opcode that, for
a known opcode, decodes to its kinds and values (log entry 15). -/
theorem pack_describes {m nreg : Nat} {item : CodeItem} (hm : m < 2 ^ 32) (hnreg : nreg < 2 ^ 32)
    (ok : codeItemOk m nreg item = true) :
    (∀ v, item = .packed v → item.pack = v) ∧
      ∀ opc ks vs, item = .fields opc ks vs → fieldOpc item.pack = opc.toNat ∧
        ∀ n, operandCount opc.toNat = some n →
          (∃ i, decode item.pack = .ok i ∧ i.operands.length = n) ∧
          ∀ (y : Nat) (kind : BitVec 2) (value : Nat), ks[y]? = some kind → vs[y]? = some value →
            (fieldKind item.pack y).code = kind ∧
            (kind = 0 ∨ kind = 1 ∨ value < 2 ^ 32 → (fieldValue item.pack y).toNat = value) := by
  refine ⟨by rintro v rfl; rfl, ?_⟩
  rintro opc ks vs rfl
  refine ⟨fieldOpc_packRecord _ _, fun n hn => ?_⟩
  obtain ⟨i, hdecode, hops, length⟩ := decode_pack_fields hn ok
  obtain ⟨hk, hv, limits⟩ := (codeItemOk_fields_known m nreg opc ks vs n hn).mp ok
  refine ⟨⟨i, hdecode, by rw [hops, length]⟩, fun y kind value hkind hvalue => ?_⟩
  have paired : (ks.zip vs)[y]? = some (kind, value) :=
    List.getElem?_zip_eq_some.mpr ⟨hkind, hvalue⟩
  have yLow : y < n := hk ▸ (List.getElem?_eq_some_iff.mp hkind).1
  have atMost := i.operands_length_le
  rw [hops, length] at atMost
  have slot : operandAt (CodeItem.fields opc ks vs).pack y =
      ⟨Kind.ofCode kind, BitVec.ofNat 32 value⟩ := by
    rw [pack_fields, operandAt_packRecord _ _ y (by omega), fieldOperands, List.getElem?_map, paired]
    rfl
  obtain ⟨kindSlot, valueSlot⟩ := Operand.mk.inj slot
  rw [kindSlot, valueSlot]
  refine ⟨Kind.code_ofCode kind, fun small => ?_⟩
  obtain ⟨himm, hreg⟩ := limits _ (List.mem_of_getElem? paired)
  rw [BitVec.toNat_ofNat]
  refine Nat.mod_eq_of_lt ?_
  rcases small with isImm | isReg | small
  · exact (himm isImm).trans_lt hm
  · exact (hreg isReg).trans hnreg
  · exact small

theorem initialise_regAt_general {i : Nat} (h : 2 ≤ i) : (initialise cfg p s).regAt i = 0 := by
  obtain ⟨k, rfl⟩ := Nat.exists_eq_add_of_le' h
  change (List.replicate (cfg.nreg.toNat - 2) (0 : Word))[k]?.getD 0 = 0
  rw [List.getElem?_replicate]
  split <;> rfl

theorem initialise_wordAt (a : Nat) :
    (initialise cfg p s).wordAt a =
      match p.static[a]? with
      | some x => trunc cfg.w x
      | none => 0 := by
  have read := Memory.read_preload cfg.w p.static 0 a
  rw [Nat.zero_add] at read
  exact read

theorem widthFor_cases (b : Nat) :
    (b ≤ 8 → widthFor b = .w8) ∧ (9 ≤ b → b ≤ 16 → widthFor b = .w16) ∧
      (17 ≤ b → widthFor b = .w32) := by
  unfold widthFor
  refine ⟨fun h => if_pos h, fun low high => ?_, fun low => ?_⟩
  · rw [if_neg (by omega), if_pos high]
  · rw [if_neg (by omega), if_neg (by omega)]

/-- Settles O53: the checks declare the configuration, initialisation sets the rest from it, and each accepted
item is stored as the record that describes it. -/
theorem loadInitialisesMachine : Obligations.LoadInitialisesMachine := by
  intro p s ready
  cases h : checkProgram p with
  | error e =>
    rw [(hostLoad_rejects h s).2] at ready
    cases ready
  | ok cfg =>
    obtain ⟨d, headers, declares, items⟩ := checkProgram_eq_ok h
    obtain ⟨bits, heap, stack, minreg, run⟩ := checkHeaders_eq_ok headers
    obtain ⟨narrow, middle, wide⟩ := widthFor_cases d.bits
    have inv := hostLoad_inv p s
    rw [hostLoad_of_ok h] at inv ⊢
    have spSize : cfg.msize.toNat = p.static.length + d.heap + d.stack := by
      rw [declares.coherent.memory, declares.slen, declares.heap, declares.stack]
    refine ⟨d.bits, d.heap, d.stack, d.minreg, bits, heap, stack, minreg, run, declares.bits_low,
      declares.bits_high, fun h8 => declares.width.trans (narrow h8),
      fun low high => declares.width.trans (middle low high), fun low => declares.width.trans (wide low),
      declares.width, declares.coherent, declares.nreg, declares.heap, declares.stack, declares.slen,
      declares.plen, rfl, ?items, rfl, rfl, inv.fileLength.trans declares.nreg, rfl, spSize,
      fun _ => initialise_regAt_general, fun a => ?words, rfl, rfl, rfl, rfl, rfl, rfl⟩
    case items =>
      intro x item hitem
      have ok := items item (List.mem_of_getElem? hitem)
      refine ⟨item.pack, ?_, pack_describes cfg.m.isLt cfg.nreg.isLt ok⟩
      change (p.code.map CodeItem.pack)[x]? = _
      rw [List.getElem?_map, hitem]
      rfl
    case words =>
      rw [← declares.width]
      exact initialise_wordAt a

end Sys2Proof.Machine
end

section
/-! PROOFS. A run as a bounded number of steps, and the end of a program's run (R134, R135, R138). -/

namespace Sys2Proof.Machine

/-- `n` steps lead from one state to another, all but the last returning Continue. -/
inductive Advances : Nat → State → State → Prop
  | one {s t : State} (h : step s = .next t) : Advances 1 s t
  | more {n : Nat} {s t u : State} (h : step s = .next t) (ready : t.status = .ready)
    (rest : Advances n t u) : Advances (n + 1) s u

variable {s t u : State} {m n : Nat}

theorem Advances.pos (h : Advances n s t) : 1 ≤ n := by cases h <;> omega

theorem Advances.append (h : Advances m s t) (ready : t.status = .ready) (rest : Advances n t u) :
    Advances (m + n) s u := by
  induction h with
  | one h => rw [Nat.add_comm]; exact .more h ready rest
  | more h hready _ ih => rw [Nat.add_right_comm]; exact .more h hready (ih ready rest)

/-! What the host's run of the machine sees. -/

theorem run_succ_of_next (M : Host.Core) {s t : M.State} (h : M.step s = .next t) :
    M.run (n + 1) s = M.run n t := by
  rw [Host.Core.run, h]

theorem core_run_succ (h : step s = .next t) : Sys2Proof.core.run (n + 1) s = Sys2Proof.core.run n t :=
  run_succ_of_next Sys2Proof.core h

theorem Advances.run (h : Advances n s t) : Sys2Proof.core.run n s = .next t := by
  induction h with
  | one h => exact core_run_succ h
  | more h _ _ ih => exact (core_run_succ h).trans ih

/-- Before the last step every state is in READY. -/
theorem Advances.ready_before (h : Advances n s t) (low : 1 ≤ m) (high : m < n) :
    ∃ u, Sys2Proof.core.run m s = .next u ∧ u.status = .ready := by
  induction h generalizing m with
  | one h => omega
  | @more n s t u h ready rest ih =>
    match m with
    | 1 => exact ⟨t, core_run_succ h, ready⟩
    | k + 2 =>
      obtain ⟨v, hv, vReady⟩ := ih (m := k + 1) (by omega) (by omega)
      exact ⟨v, (core_run_succ h).trans hv, vReady⟩

/-! Bursts (R134). -/

/-- `r` answers the state after at most `limit` steps from `s`, and after exactly that many if the last of
them returned Continue. -/
def EndsWithin (limit : Nat) (s : State) (r : Outcome) : Prop :=
  ∃ n t, Advances n s t ∧ n ≤ limit ∧ (t.status = .ready → n = limit) ∧ r = .next t ∧ t.Executable

theorem runBurst_endsWithin (n : Nat) (h : s.Executable) (hs : s.steppable = true) :
    EndsWithin (n + 1) s (runBurst (n + 1) s) := by
  induction n generalizing s with
  | zero =>
    obtain ⟨t, hstep, ht⟩ := h.step_next hs
    refine ⟨1, t, .one hstep, le_rfl, fun _ => rfl, ?_, ht⟩
    simp only [runBurst, hstep, ite_self]
  | succ n ih =>
    obtain ⟨t, hstep, ht⟩ := h.step_next hs
    rw [runBurst, hstep]
    dsimp only
    split
    case isTrue ready =>
      obtain ⟨k, u, advances, atMost, full, hburst, hu⟩ := ih ht (State.steppable_of_ready ready)
      exact ⟨k + 1, u, .more hstep ready advances, by omega, fun h => by rw [full h], hburst, hu⟩
    case isFalse notReady =>
      exact ⟨1, t, .one hstep, by omega, fun h => absurd h notReady, rfl, ht⟩

theorem runBursts_endsWithin (burst k : Nat) (hburst : 1 ≤ burst) (h : s.Executable)
    (hs : s.steppable = true) : EndsWithin (burst * (k + 1)) s (runBursts burst (k + 1) s) := by
  obtain ⟨b, rfl⟩ := Nat.exists_eq_add_of_le' hburst
  induction k generalizing s with
  | zero =>
    obtain ⟨n, t, advances, atMost, full, hrun, ht⟩ := runBurst_endsWithin b h hs
    refine ⟨n, t, advances, by simpa using atMost, by simpa using full, ?_, ht⟩
    simp only [runBursts, hrun, ite_self]
  | succ k ih =>
    obtain ⟨n, t, advances, atMost, full, hrun, ht⟩ := runBurst_endsWithin b h hs
    have total : (b + 1) * (k + 1 + 1) = (b + 1) + (b + 1) * (k + 1) := by ring
    rw [runBursts, hrun, total]
    dsimp only
    split
    case isTrue ready =>
      obtain ⟨n', u, advances', atMost', full', hrun', hu⟩ := ih ht (State.steppable_of_ready ready)
      have first := full ready
      exact ⟨n + n', u, advances.append ready advances', by omega,
        fun h => by rw [first, full' h], hrun', hu⟩
    case isFalse notReady =>
      exact ⟨n, t, advances, by omega, fun h => absurd h notReady, rfl, ht⟩

/-! The end of the run (R138). -/

/-- The final state, when the last call returned Halted. -/
theorem endOfRun_executes (burst : Nat) {c : HostCall} (h : c.make burst s = .next t)
    (he : c.executes = true) :
    endOfRun burst [c] s = if t.status = .halted then some t.finalState else none := by
  split
  case isTrue halted => exact endOfRun_halted burst c [] s t h he halted
  case isFalse notHalted =>
    rw [endOfRun_proceeds burst c [] s t h (.inr notHalted), endOfRun_nil]

/-- Stepping ends the run where the last step halts. -/
theorem Advances.endOfRun (burst : Nat) (h : Advances n s t) :
    endOfRun burst (List.replicate n .step) s =
      if t.status = .halted then some t.finalState else none := by
  induction h with
  | one h => exact endOfRun_executes burst (c := .step) h rfl
  | more h ready _ ih =>
    rw [List.replicate_succ, endOfRun_proceeds burst .step _ _ _ h (.inr (by simp [ready])), ih]

/-- Calls after the end of the run do not change it. -/
theorem endOfRun_append {burst : Nat} {calls : List HostCall} {f : FinalState} (more : List HostCall)
    (h : endOfRun burst calls s = some f) : endOfRun burst (calls ++ more) s = some f := by
  induction calls generalizing s with
  | nil => rw [endOfRun_nil] at h; cases h
  | cons c rest ih =>
    rw [List.cons_append, endOfRun] at *
    cases hmake : c.make burst s with
    | next t =>
      rw [hmake] at h
      dsimp only at h ⊢
      split at h
      case isTrue ended => rw [if_pos ended]; exact h
      case isFalse goesOn => rw [if_neg goesOn]; exact ih h
    | refused r => rw [hmake] at h; exact ih h
    | fault r => rw [hmake] at h; cases h

/-- Outside READY and HALTED `step` and `run` are refused (R121, R362). -/
theorem make_refused (burst : Nat) {c : HostCall} (hs : ¬ s.steppable = true) (he : c.executes = true) :
    c.make burst s = .refused (.callRefused s.status) := by
  cases c with
  | step => exact step_refused s hs
  | run k => exact hostRun_refused s burst k hs
  | resume v => cases he
  | register d => cases he

theorem endOfRun_awaiting (burst : Nat) (calls : List HostCall) (awaiting : s.status = .awaitingInput)
    (executes : ∀ c ∈ calls, c.executes = true) : endOfRun burst calls s = none := by
  have hs : ¬ s.steppable = true := by simp [State.steppable, awaiting]
  induction calls with
  | nil => exact endOfRun_nil burst s
  | cons c rest ih =>
    obtain ⟨head, tail⟩ := List.forall_mem_cons.mp executes
    rw [endOfRun_refused burst c rest s _ (make_refused burst hs head)]
    exact ih tail

/-- After a fatal fault nothing is pending, so that a resume is ignored, and a device only registers. -/
theorem endOfRun_faulted (burst : Nat) (calls : List HostCall) (faulted : s.status = .faulted)
    (nothing : s.pending.valid = false) : endOfRun burst calls s = none := by
  have hs : ¬ s.steppable = true := by simp [State.steppable, faulted]
  induction calls generalizing s with
  | nil => exact endOfRun_nil burst s
  | cons c rest ih =>
    cases c with
    | step | run k =>
      rw [endOfRun_refused burst _ rest s _ (make_refused burst hs rfl)]
      exact ih faulted nothing hs
    | resume v =>
      rw [endOfRun_proceeds burst (.resume v) rest s s (finishPendingInput_ignored s v nothing) (.inl rfl)]
      exact ih faulted nothing hs
    | register d =>
      rw [endOfRun_proceeds burst (.register d) rest s (registerDevice d s) rfl (.inl rfl)]
      exact ih faulted nothing hs

/-- Settles O13: a run's bursts advance the machine step by step, and the end of the run is read from the last
of those steps. -/
theorem runIsRepeatedSteps : Obligations.RunIsRepeatedSteps := by
  refine ⟨?bounded, fun s burst calls more f => endOfRun_append more, fun s burst calls =>
    endOfRun_awaiting burst calls, fun s burst calls inv faulted => ?faulted⟩
  case bounded =>
    intro s burst k inv hstatus hburst hk
    have hs : s.steppable = true := s.steppable_iff.mpr hstatus
    have executable := inv.executable (State.loaded_of_steppable hs)
    obtain ⟨k, rfl⟩ := Nat.exists_eq_add_of_le' hk
    obtain ⟨n, t, advances, atMost, full, hrun, -⟩ := runBursts_endsWithin burst k hburst executable hs
    rw [← hostRun_eq_runBursts burst (k + 1) hs] at hrun
    exact ⟨n, t, advances.pos, atMost, hrun, advances.run, full, fun m => advances.ready_before,
      endOfRun_executes burst (c := .run (k + 1)) hrun rfl, advances.endOfRun burst⟩
  case faulted =>
    exact endOfRun_faulted burst calls faulted (inv.pending_invalid (by simp [faulted]))

end Sys2Proof.Machine
end
